-- ==== Sys2Proof/Word.lean ====
section
/-! DEFINITION. The words of the part (addresses, bytes, masks, object values) and the fixed-size table that
every register file of the part is held in. -/

namespace Sys2Proof

/-- One byte of a line. -/
abbrev Byte := BitVec 8

/-- A 40-bit byte address (00 section 6). -/
abbrev Addr := BitVec 40

/-- A 32-bit byte mask; bit n selects byte n of a line (R119). -/
abbrev ByteMask := BitVec 32

/-- The 32-bit value of a management object (R176). -/
abbrev Word := BitVec 32

/-- A requester port, RP0 to RP3. -/
abbrev Port := Fin 4

/-- A request tag, 0 to 15. -/
abbrev ReqTag := Fin 16

/-- The index of a line entry, 0 to 63 (R1). -/
abbrev EntryIx := Fin 64

/-- The number of a read slot, 0 to 23 (R42). -/
abbrev SlotIx := Fin 24

/-- The id of a bundle context, 0 to 5 (R62). -/
abbrev CtxIx := Fin 6

/-- The id of a fence record, 0 to 7 (R85). -/
abbrev FenceIx := Fin 8

/-- A memory access tag, 0 to 7 (R100). -/
abbrev AccessTag := Fin 8

/-- A table of exactly `n` items. -/
structure Table (α : Type) (n : Nat) where
  items : List α
  size : items.length = n
deriving DecidableEq, Repr

namespace Table

variable {α β : Type} {n : Nat}

/-- The item at a position. -/
def get (t : Table α n) (i : Fin n) : α := t.items[i.val]'(by rw [t.size]; exact i.isLt)

/-- The table whose item at `i` is `f i`. -/
def ofFn (f : Fin n → α) : Table α n := ⟨List.ofFn f, List.length_ofFn⟩

/-- The table of `n` equal items. -/
def replicate (n : Nat) (a : α) : Table α n := ⟨List.replicate n a, List.length_replicate⟩

/-- The table with the item at `i` replaced. -/
def set (t : Table α n) (i : Fin n) (a : α) : Table α n :=
  ⟨t.items.set i.val a, by rw [List.length_set]; exact t.size⟩

/-- Every item changed by a function of its position and its value. -/
def mapIx (f : Fin n → α → β) (t : Table α n) : Table β n := ofFn fun i => f i (t.get i)

/-- The first position, from 0 up, whose item passes a test. -/
def lowest (p : α → Bool) (t : Table α n) : Option (Fin n) :=
  (List.finRange n).find? fun i => p (t.get i)

/-- The positions whose items pass a test, in rising order. -/
def positions (p : α → Bool) (t : Table α n) : List (Fin n) :=
  (List.finRange n).filter fun i => p (t.get i)

/-- How many items pass a test. -/
def count (p : α → Bool) (t : Table α n) : Nat := t.items.countP p

end Table

/-- The 32 bytes of a line; byte n belongs to the line address plus n (R1). -/
abbrev LineData := Table Byte 32

end Sys2Proof
end

