-- ==== Sys2Proof/Syntax.lean ====
section
/-! DEFINITION. The commands of the part: one constructor for each row of spec/opcode_table.json. -/

namespace Sys2Proof

/-- The three objects of a window (R140): base low, base high with size, class with enable (R176). -/
inductive WindowPart where
  | baseLow
  | baseHighSize
  | classEnable
deriving DecidableEq, Repr

/-- The status of a memory response (R99). -/
inductive MemStatus where
  | ok
  | error
deriving DecidableEq, Repr

/-- An edge of SCL (R169). -/
inductive SclEdge where
  | falling
  | rising
deriving DecidableEq, Repr

/-- A command of the part: an event at one of its interfaces. The acceptances carry no operand, because the
intake's scan names the port (R130) and its head request holds the fields (R122). -/
inductive Instr where
  /-- HEAD_REQUEST (R122): the port takes the record offered on its request channel, signals as R121. -/
  | headRequest (port : Port) (kind : BitVec 3) (tag : ReqTag) (addr : Addr) (len : BitVec 6)
      (lane : BitVec 2) (mask : ByteMask) (data : BitVec 256)
  /-- FORWARDED_READ (R45): the intake accepts a POST or THROUGH read. -/
  | forwardedRead
  /-- ORDERED_READ (R51): the intake accepts an ORDERED read. -/
  | orderedRead
  /-- PLAIN_WRITE (R5): the intake accepts a write with lane NONE. -/
  | plainWrite
  /-- MEMBER_WRITE (R66): the intake accepts a write on lane L0 or L1. -/
  | memberWrite
  /-- FENCE_PORT (R87): the intake accepts a FENCE-PORT. -/
  | fencePort
  /-- FENCE_ALL (R87): the intake accepts a FENCE-ALL. -/
  | fenceAll
  /-- B_OPEN (R65): the intake accepts a B-OPEN. -/
  | bOpen
  /-- B_CLOSE (R74): the intake accepts a B-CLOSE. -/
  | bClose
  /-- B_CANCEL (R76): the intake accepts a B-CANCEL. -/
  | bCancel
  /-- RESPONSE_DELIVERY (R132): the requester takes the oldest response of the port. -/
  | responseDelivery (port : Port)
  /-- ISSUE (R102): the memory controller takes the access the arbiter offers. -/
  | issue
  /-- MEMORY_RESPONSE (R110): a memory response is taken, its data bits as driven (R99). -/
  | memoryResponse (tag : AccessTag) (status : MemStatus) (data : BitVec 256)
  /-- TICK (R155): the timebase produces a tick. -/
  | tick
  /-- AGE_REACHED (R30): the age of a PENDING entry has reached AGE_LIMIT. -/
  | ageReached (entry : EntryIx)
  /-- IDLE_EXPIRY (R79): the idle timer of an OPEN context has reached IDLE_LIMIT. -/
  | idleExpiry (ctx : CtxIx)
  /-- ACCESS_TIMEOUT (R112): the timer of an OUTSTANDING record has reached MEM_TIMEOUT. -/
  | accessTimeout (tag : AccessTag)
  /-- PRST_N_ASSERT (R135): the port reset input is asserted. -/
  | prstAssert (port : Port)
  /-- PRST_N_RELEASE (R136): the port reset input is released. -/
  | prstRelease (port : Port)
  /-- DEVICE_RESET (R178): RST_N is asserted. -/
  | deviceReset
  /-- DEVICE_RESET_RELEASE (R168): RST_N is released, with the level of ADDR[1:0] at that moment. -/
  | deviceResetRelease (strap : BitVec 2)
  /-- LINK_START (R169): a START or repeated START with an address byte. -/
  | linkStart (addressByte : Byte)
  /-- LINK_INDEX_BYTE (R169): an index byte of a write frame. -/
  | linkIndexByte (byte : Byte)
  /-- LINK_DATA_BYTE (R170): a data byte of a write frame. -/
  | linkDataByte (byte : Byte)
  /-- LINK_READ_BYTE (R170): a byte is sent, and the controller acknowledges it or not. -/
  | linkReadByte (ack : Bool)
  /-- LINK_STOP (R171): a STOP. -/
  | linkStop
  /-- BUS_TIMEOUT (R171): SCL has stayed low for 25 ms. -/
  | busTimeout
  /-- ENABLE (R147). -/
  | enable
  /-- QUIESCE (R148). -/
  | quiesce
  /-- RESUME (R150). -/
  | resume
  /-- DISABLE (R151). -/
  | disable
  /-- ABORT_BUNDLES (R81). -/
  | abortBundles
  /-- PORT_RESET (R135), the link command with its argument. -/
  | portReset (port : Port)
  /-- FAULT_POP (R160). -/
  | faultPop
  /-- CLEAR_FLAGS (R164). -/
  | clearFlags
  /-- RELEASE_TAGS (R116). -/
  | releaseTags
  /-- HIGH_MARK (R15): a write of the object. -/
  | highMark (value : Word)
  /-- LOW_MARK (R15). -/
  | lowMark (value : Word)
  /-- AGE_LIMIT (R29). -/
  | ageLimit (value : Word)
  /-- IDLE_LIMIT (R80). -/
  | idleLimit (value : Word)
  /-- MEM_TIMEOUT (R113). -/
  | memTimeout (value : Word)
  /-- TBDIV (R153). -/
  | tbdiv (value : Word)
  /-- ALERT_MASK (R165). -/
  | alertMask (value : Word)
  /-- WINDOW_OBJECT (R141): a write to one of the three objects of a window. -/
  | windowObject (window : Fin 8) (part : WindowPart) (value : Word)
  /-- OBJECT_WRITE (R173): a write to any other object, by its index. -/
  | objectWrite (index : BitVec 16) (value : Word)
  /-- SCL_EDGE (R171): an edge of SCL. -/
  | sclEdge (edge : SclEdge)
deriving DecidableEq, Repr

end Sys2Proof
end

