-- ==== Sys2Proof/WellFormed.lean ====
section
/-! DEFINITION. Which commands are well formed. The operand types carry the ranges; what is left is that
OBJECT_WRITE names an object that has no row of its own ("a write to any other object"). The machine gives a
meaning to every command, the ill-formed ones too. -/

namespace Sys2Proof

/-- The configuration objects with a row of their own: HIGH_MARK, LOW_MARK, AGE_LIMIT, IDLE_LIMIT, MEM_TIMEOUT,
TBDIV and ALERT_MASK, at the indexes of R176. -/
def ownRowConfigIndexes : List Nat := [0x0102, 0x0103, 0x0104, 0x0105, 0x0106, 0x0109, 0x010B]

/-- The index names a configuration object with a row of its own. -/
def isOwnRowConfig (index : BitVec 16) : Bool := ownRowConfigIndexes.contains index.toNat

/-- The index names a window object (R176): 0x0200 + 4w + k with k 0 to 2. -/
def isWindowIndex (index : BitVec 16) : Bool :=
  0x0200 ≤ index.toNat && index.toNat < 0x0220 && index.toNat % 4 != 3

/-- The value is the word of a command with a row of its own, its argument in range (R175, R176). -/
def isCommandWord (v : Word) : Bool :=
  [0x01, 0x02, 0x03, 0x04, 0x10, 0x11, 0x12, 0x13, 0x14, 0x111, 0x211, 0x311].contains v.toNat

/-- The checks, command by command. -/
def Instr.wellFormed : Instr → Bool
  | .headRequest .. => true
  | .forwardedRead => true
  | .orderedRead => true
  | .plainWrite => true
  | .memberWrite => true
  | .fencePort => true
  | .fenceAll => true
  | .bOpen => true
  | .bClose => true
  | .bCancel => true
  | .responseDelivery _ => true
  | .issue => true
  | .memoryResponse .. => true
  | .tick => true
  | .ageReached _ => true
  | .idleExpiry _ => true
  | .accessTimeout _ => true
  | .prstAssert _ => true
  | .prstRelease _ => true
  | .deviceReset => true
  | .deviceResetRelease _ => true
  | .linkStart _ => true
  | .linkIndexByte _ => true
  | .linkDataByte _ => true
  | .linkReadByte _ => true
  | .linkStop => true
  | .busTimeout => true
  | .enable => true
  | .quiesce => true
  | .resume => true
  | .disable => true
  | .abortBundles => true
  | .portReset _ => true
  | .faultPop => true
  | .clearFlags => true
  | .releaseTags => true
  | .highMark _ => true
  | .lowMark _ => true
  | .ageLimit _ => true
  | .idleLimit _ => true
  | .memTimeout _ => true
  | .tbdiv _ => true
  | .alertMask _ => true
  | .windowObject .. => true
  | .objectWrite index value =>
      !isOwnRowConfig index && !isWindowIndex index &&
        !(index == 0x0020 && isCommandWord value)
  | .sclEdge _ => true

end Sys2Proof
end

