-- ==== Sys2Proof/Decode.lean ====
section
/-! DEFINITION. The decoder. No row of spec/opcode_table.json gives its command any bits (98: "n_rows_with_fixed": 0),
so no word spells a command (log 14). -/

namespace Sys2Proof

/-- The command that a word spells by the table's bits: none, since the table gives no row bits. -/
def decodeTableWord (_nbits _w : Nat) : Option Instr := none

end Sys2Proof
end

