-- ==== Sys2Proof/Config.lean ====
section
/-! DEFINITION. What an implementation fixes (codes, capacities and limits the spec gives once for every part)
and the free value that stands where the spec leaves an order open. -/

namespace Sys2Proof.Config

/-- Entries of the posting buffer (00 section 6, Capacities). -/
def entryCount : Nat := 64

/-- Records the fault list holds at most (R158). -/
def faultListSize : Nat := 8

/-- The age at which an entry's age stops advancing (R28). -/
def ageCeiling : Nat := 1023

/-- The value at which the read-run count holds (R104). -/
def readRunCeiling : Nat := 16

/-- The bus timeout: 25 ms, 25,000 ticks of the timebase (R171). -/
def busTimeoutTicks : Nat := 25000

/-- The 7-bit bus address before the strap is added (R168). -/
def busAddressBase : Nat := 0x3A

/-- The identification object: vendor code 0x5047, part code 0x4216 (R176). -/
def identification : Word := 0x42165047

/-- The revision code of the part the manual describes (R176). -/
def revision : Word := 0x01

/-- FREE VALUE (log 3): which of several access timeouts of one tick is taken next. R159 leaves the order open ("either of two failures may be taken first"). Applied
to the counter `freeCount` of State; it has no body, so nothing can be proved of the order it gives. -/
opaque expiryPick : Nat → Nat

end Sys2Proof.Config
end

