-- ==== Sys2Proof/Machine/State.lean ====
section
/-! DEFINITION. The state of the part: every block of 00 section 4.1 with everything it holds, the reset and
strap pins, and the queue of commands that wait. Plain data. -/

namespace Sys2Proof.Machine

/-- The class of a write or of an address (00 section 5). -/
inductive WClass where
  | post
  | ordered
  | through
deriving DecidableEq, Repr

/-- A port's two bundle lanes (R64). A write with lane NONE carries `none`. -/
inductive Lane where
  | l0
  | l1
deriving DecidableEq, Repr

/-! ## Requests and responses (chapter 7) -/

/-- A request by its kind, with the fields the kind uses (R119). The length of a READ is the raw field, 0 to 63. -/
inductive ReqBody where
  | read (addr : Addr) (len : Nat)
  | write (addr : Addr) (lane : Option Lane) (mask : ByteMask) (data : LineData)
  | fencePort
  | fenceAll
  | bOpen (lane : Lane)
  | bClose (lane : Lane)
  | bCancel (lane : Lane)
deriving DecidableEq, Repr

/-- A request (R119). -/
structure Request where
  tag : ReqTag
  body : ReqBody
deriving DecidableEq, Repr

/-- The reasons of status FAULT (R120). -/
inductive FaultReason where
  | memError
  | memTimeout
  | postedFault
deriving DecidableEq, Repr

/-- The reasons of status REFUSED (R120). -/
inductive RefusedReason where
  | span
  | empty
  | noBundle
  | laneBusy
  | cls
  | fenceInBundle
  | mode
deriving DecidableEq, Repr

/-- The reasons of status RETRY (R120). -/
inductive RetryReason where
  | noContext
  | noFence
  | quiesce
deriving DecidableEq, Repr

/-- The reasons for which a bundle is aborted (R62), reported with status ABORTED (R120). -/
inductive AbortReason where
  | quota
  | space
  | cls
  | idle
  | maint
deriving DecidableEq, Repr

/-- Where the bytes of a read came from (R120). -/
inductive Source where
  | buffer
  | memory
  | mixed
deriving DecidableEq, Repr

/-- A response's status with the fields that go with it (R120). `doneRead` is the DONE of a READ. -/
inductive Answer where
  | done
  | doneRead (data : List Byte) (source : Source)
  | fault (reason : FaultReason)
  | refused (reason : RefusedReason)
  | retry (reason : RetryReason)
  | void
  | aborted (reason : AbortReason)
deriving DecidableEq, Repr

/-- A response record (R120). -/
structure Response where
  tag : ReqTag
  answer : Answer
deriving DecidableEq, Repr

/-- What one requester port holds (R122 to R125, R132, R95, R42), and the level of its PRST_N input. -/
structure PortState where
  head : Option Request
  /-- The set of outstanding tags, in rising order (R125). -/
  outstanding : List ReqTag
  /-- The response queue, oldest first (R132). -/
  queue : List Response
  violation : Bool
  portFault : Bool
  /-- PRST_N[n] is asserted. -/
  held : Bool
  /-- The order number of the port's next read (R49, R61). -/
  nextSeq : Nat
deriving DecidableEq, Repr

/-! ## The posting buffer (chapter 1) -/

/-- The fields of a PENDING or ISSUED entry (R1). -/
structure Committed where
  line : Addr
  data : LineData
  mask : ByteMask
  cls : WClass
  port : Port
  replyTag : Option ReqTag
  fromBundle : Bool
  age : Nat
  /-- The blocked-by set, in rising order (R8). -/
  blockedBy : List SlotIx
deriving DecidableEq, Repr

/-- The fields of a MEMBER entry; its class is always POST (R1). -/
structure Member where
  line : Addr
  data : LineData
  mask : ByteMask
  port : Port
deriving DecidableEq, Repr

/-- A line entry in its state (R1, R2). -/
inductive Entry where
  | free
  | member (m : Member)
  | pending (c : Committed)
  | issued (c : Committed) (tag : AccessTag)
deriving DecidableEq, Repr

/-! ## The read tracker (chapter 3) -/

/-- The fields of a read slot in use (R42). The snapshot holds one item per requested byte, `none` where the
byte is not covered. `waitsFor` is present for an ORDERED read. -/
structure ReadRec where
  port : Port
  tag : ReqTag
  addr : Addr
  len : Nat
  seq : Nat
  snapshot : List (Option Byte)
  waitsFor : Option (List EntryIx)
deriving DecidableEq, Repr

/-- A read slot in its state (R42, R43). -/
inductive Slot where
  | free
  | waiting (r : ReadRec)
  | ready (r : ReadRec)
  | issued (r : ReadRec) (tag : AccessTag) (orphaned : Bool)
deriving DecidableEq, Repr

/-! ## The bundle table (chapter 4) -/

/-- The order in which a port's non-FREE contexts were opened (R64). -/
inductive Rank where
  | first
  | second
deriving DecidableEq, Repr

/-- The fields of an OPEN context (R62). -/
structure OpenCtx where
  port : Port
  lane : Lane
  rank : Rank
  members : List EntryIx
  idle : Nat
deriving DecidableEq, Repr

/-- A bundle context in its state (R62, R63). -/
inductive Ctx where
  | free
  | opened (o : OpenCtx)
  | aborted (port : Port) (lane : Lane) (rank : Rank) (reason : AbortReason)
deriving DecidableEq, Repr

/-! ## The fence table (chapter 5) -/

/-- The fields of a WAITING fence record (R85). -/
structure FenceWait where
  port : Port
  tag : ReqTag
  accepted : Nat
  /-- The wait set, in rising order (R88). -/
  waitSet : List EntryIx
  faultSeen : Bool
deriving DecidableEq, Repr

/-- A fence record in its state (R86). -/
inductive FenceRec where
  | free
  | waiting (w : FenceWait)
deriving DecidableEq, Repr

/-! ## The memory port (chapter 6) -/

/-- The owner of an OUTSTANDING record, which also says the kind of its access (R100). -/
inductive Owner where
  | write (entry : EntryIx)
  | read (slot : SlotIx)
deriving DecidableEq, Repr

/-- An access record in its state (R100, R101). -/
inductive AccessRec where
  | free
  | outstanding (owner : Owner) (timer : Nat)
  | quarantined
deriving DecidableEq, Repr

/-- The class of the most recent issue (R104). -/
inductive LastClass where
  | none
  | read
  | drain
deriving DecidableEq, Repr

/-- The two ring pointers of one class (R106). Position 4 of the high ring is LOW. -/
structure RingPtrs where
  high : Fin 5
  low : Fin 4
deriving DecidableEq, Repr

/-- The arbiter's state (R104, R106). -/
structure Arbiter where
  readRun : Nat
  lastClass : LastClass
  reads : RingPtrs
  drains : RingPtrs
deriving DecidableEq, Repr

/-! ## Faults, windows, mode, configuration, timebase, link (chapters 8 to 10) -/

/-- The kind of a fault record (R157). -/
inductive FaultKind where
  | writeError
  | writeTimeout
deriving DecidableEq, Repr

/-- A fault record (R157). -/
structure FaultRecord where
  kind : FaultKind
  line : Addr
  mask : ByteMask
  port : Port
  cls : WClass
  fromBundle : Bool
  time : BitVec 32
deriving DecidableEq, Repr

/-- The alert mask (R165). -/
structure AlertMask where
  fault : Bool
  violation : Bool
  stray : Bool
  mode : Bool
deriving DecidableEq, Repr

/-- An address window (R140); its size is 2 to the power `exponent`. -/
structure Window where
  enabled : Bool
  base : Addr
  exponent : Nat
  cls : WClass
deriving DecidableEq, Repr

/-- The mode of the part (R146). -/
inductive Mode where
  | pass
  | run
  | quiescing
  | quiesced
deriving DecidableEq, Repr

/-- The configuration items (00 section 6, R176); `portLow` is PORT_GROUP, set for a port of the low group. -/
structure ConfigItems where
  bundleQuota : Nat
  reserve : Nat
  highMark : Nat
  lowMark : Nat
  ageLimit : Nat
  idleLimit : Nat
  memTimeout : Nat
  readRunLimit : Nat
  portLow : Table Bool 4
  tbdiv : Nat
  defaultClass : WClass
  alertMask : AlertMask
deriving DecidableEq, Repr

/-- How far a read frame has come within an object (R170). -/
inductive ReadPhase where
  /-- At the first byte of the object at the current index. -/
  | atStart
  /-- The value was taken and `sent` of its four bytes, 1 to 3, were sent. -/
  | sending (value : Word) (sent : Nat)
  /-- The controller did not acknowledge a byte; the part waits for STOP or a repeated START. -/
  | ended
deriving DecidableEq, Repr

/-- The frame state of the link (R169). -/
inductive Frame where
  | idle
  | indexHigh
  | indexLow (high : Byte)
  /-- The bytes held toward an object value, first byte first. -/
  | writeData (held : List Byte)
  | readData (phase : ReadPhase)
deriving DecidableEq, Repr

/-- The outcome of the most recent object write (R174). -/
inductive LastResult where
  | none
  | accepted
  | refusedState
  | refusedValue
deriving DecidableEq, Repr

/-- What the maintenance link holds (R168, R169, R174, R171). `busTimer` counts ticks while the bus timeout timer runs. -/
structure Link where
  strap : BitVec 2
  frame : Frame
  index : BitVec 16
  lastResult : LastResult
  lastIndex : BitVec 16
  busTimer : Option Nat
deriving DecidableEq, Repr

/-! ## The whole part -/

/-- The state of the part and the queue of commands. -/
structure State where
  ports : Table PortState 4
  /-- The intake's round-robin pointer (R130). -/
  intakePtr : Port
  windows : Table Window 8
  entries : Table Entry 64
  /-- The committed entries, oldest commit first: the line chains (R3), the port order queues (R23) and the
  ORDERED list (R26) are views of it (log 6). -/
  commitOrder : List EntryIx
  pressure : Bool
  slots : Table Slot 24
  contexts : Table Ctx 6
  fences : Table FenceRec 8
  /-- The order number of the next accepted fence (R85). -/
  nextFence : Nat
  accesses : Table AccessRec 8
  arbiter : Arbiter
  faultList : List FaultRecord
  overflow : Bool
  stray : Bool
  modeEvent : Bool
  mode : Mode
  config : ConfigItems
  /-- CLK periods since the last tick or fresh start of the divider (R153). -/
  divider : Nat
  timeCount : BitVec 32
  link : Link
  /-- RST_N is asserted (R178). -/
  inReset : Bool
  /-- The model's own counter, which the free value `Config.expiryPick` is applied to (log 3). -/
  freeCount : Nat
  /-- The commands that wait, the first at the front. -/
  pending : List Instr
deriving DecidableEq, Repr

/-- The faults of a step: none. The spec names no event on which the part stops, and every failure it names is
an effect on State; so no command raises a fault (safe: nothing is hidden behind a stop). -/
inductive Fault where
deriving DecidableEq, Repr

/-- The refusals of a step. -/
inductive Refusal where
  /-- Raised by an arm of exec whose command has no meaning yet (safe: the run stops). No arm raises it now. -/
  | notModelled (mnemonic : String)
deriving DecidableEq, Repr

/-- The outcome of a command. -/
abbrev Outcome := Host.Outcome State Fault Refusal

/-! ## Reset values -/

/-- A port after device reset (R138, R124, R95, R61), its PRST_N input released (log 7). -/
def PortState.reset : PortState :=
  { head := none, outstanding := [], queue := [], violation := false, portFault := false,
    held := false, nextSeq := 0 }

/-- A window after device reset (R140). -/
def Window.reset : Window := { enabled := false, base := 0, exponent := 12, cls := .through }

/-- The arbiter after device reset (R104, R107). -/
def Arbiter.reset : Arbiter :=
  { readRun := 0, lastClass := .none, reads := { high := 0, low := 0 }, drains := { high := 0, low := 0 } }

/-- The configuration items after device reset (00 section 6). -/
def ConfigItems.reset : ConfigItems :=
  { bundleQuota := 16, reserve := 8, highMark := 48, lowMark := 32, ageLimit := 64, idleLimit := 1000,
    memTimeout := 100, readRunLimit := 4, portLow := Table.replicate 4 false, tbdiv := 200,
    defaultClass := .through,
    alertMask := { fault := true, violation := true, stray := true, mode := false } }

/-- The link after device reset with a given strap (R177). -/
def Link.reset (strap : BitVec 2) : Link :=
  { strap := strap, frame := .idle, index := 0, lastResult := .none, lastIndex := 0, busTimer := none }

/-- The part right after device reset, RST_N released, every PRST_N released, ADDR[1:0] at 0 (log 7). -/
def State.reset : State :=
  { ports := Table.replicate 4 PortState.reset
    intakePtr := 0
    windows := Table.replicate 8 Window.reset
    entries := Table.replicate 64 .free
    commitOrder := []
    pressure := false
    slots := Table.replicate 24 .free
    contexts := Table.replicate 6 .free
    fences := Table.replicate 8 .free
    nextFence := 0
    accesses := Table.replicate 8 .free
    arbiter := Arbiter.reset
    faultList := []
    overflow := false
    stray := false
    modeEvent := false
    mode := .pass
    config := ConfigItems.reset
    divider := 0
    timeCount := 0
    link := Link.reset 0
    inReset := false
    freeCount := 0
    pending := [] }

end Sys2Proof.Machine
end

