-- ==== Sys2Proof/Machine/Operands.lean ====
section
/-! DEFINITION. The forms an operand takes at the part's interfaces: request codes, addresses and lines, bytes and
masks of a line, and the word of an object value. Byte order is decided here, once. -/

namespace Sys2Proof.Machine

/-! ## Addresses and lines (00 section 6) -/

/-- The line address of an address: its low five bits cleared (R119). -/
def lineOf (a : Addr) : Addr := (a >>> 5) <<< 5

/-- The byte position of an address within its line. -/
def lineOffset (a : Addr) : Nat := a.toNat % 32

/-! ## Bytes and masks -/

/-- Byte i of a 256-bit data field, on bits 8i to 8i+7 (R121, R99). -/
def fieldByte (d : BitVec 256) (i : Nat) : Byte := d.extractLsb' (8 * i) 8

/-- The 32 bytes of a 256-bit data field (R121). -/
def lineDataOf (d : BitVec 256) : LineData := Table.ofFn fun n => fieldByte d n.val

/-- The byte at a position of a line. -/
def byteAt (d : LineData) (pos : Nat) : Byte := d.items.getD pos 0

/-- The mask selects the byte at a position. -/
def selects (m : ByteMask) (pos : Nat) : Bool := m.getLsbD pos

/-- The bytes a mask selects laid over a line's bytes; the other bytes keep their values (R11, R68). -/
def layOver (old : LineData) (m : ByteMask) (new : LineData) : LineData :=
  Table.ofFn fun n => if selects m n.val then new.get n else old.get n

/-! ## Request codes (R121) -/

/-- The lane of a WRITE by its code; code 3 is undefined. -/
def writeLane (code : BitVec 2) : Option (Option Lane) :=
  if code = 0 then some none
  else if code = 1 then some (some .l0)
  else if code = 2 then some (some .l1)
  else none

/-- The lane of a bundle request by its code; codes 0 and 3 are undefined for it (R123). -/
def bundleLane (code : BitVec 2) : Option Lane :=
  if code = 1 then some .l0 else if code = 2 then some .l1 else none

/-- The request that the signals of a request channel spell, with the fields its kind uses and no others (R119,
R121); `none` where the kind code or a used lane code is undefined (R123). -/
def requestBody (kind : BitVec 3) (addr : Addr) (len : BitVec 6) (lane : BitVec 2) (mask : ByteMask)
    (data : BitVec 256) : Option ReqBody :=
  if kind = 0 then some (.read addr len.toNat)
  else if kind = 1 then (writeLane lane).map fun l => .write addr l mask (lineDataOf data)
  else if kind = 2 then some .fencePort
  else if kind = 3 then some .fenceAll
  else if kind = 4 then (bundleLane lane).map .bOpen
  else if kind = 5 then (bundleLane lane).map .bClose
  else if kind = 6 then (bundleLane lane).map .bCancel
  else none

/-- A READ fails the format check: length 0, above 32, or past the end of its line (R126). -/
def spanFails (addr : Addr) (len : Nat) : Bool := len == 0 || 32 < len || 32 < lineOffset addr + len

/-- A WRITE fails the format check: its mask selects no byte (R126). -/
def emptyFails (mask : ByteMask) : Bool := mask == 0

/-! ## Object values (R170, R173) -/

/-- A value whose bits at and above `width` are zero. -/
def fitsIn (v : Word) (width : Nat) : Bool := v.toNat < 2 ^ width

/-- The value of four bytes, least significant first (R170). -/
def wordOfBytes (b0 b1 b2 b3 : Byte) : Word := b3 ++ b2 ++ b1 ++ b0

/-- Byte k of a value, byte 0 least significant (R170). -/
def wordByte (v : Word) (k : Nat) : Byte := v.extractLsb' (8 * k) 8

/-- The index of two index bytes, the high byte first (R169). -/
def indexOfBytes (high low : Byte) : BitVec 16 := high ++ low

/-- The class of a code: 0 POST, 1 ORDERED, 2 THROUGH; code 3 is not assigned (R176, R173). -/
def classOfCode (code : Nat) : Option WClass :=
  if code = 0 then some .post
  else if code = 1 then some .ordered
  else if code = 2 then some .through
  else none

/-- The code of a class (R176). -/
def classCode : WClass → Nat
  | .post => 0
  | .ordered => 1
  | .through => 2

end Sys2Proof.Machine
end

