-- ==== Sys2Proof/Machine/Ops.lean ====
section
/-! DEFINITION. The shared operations over the part's tables and lists: named reads and writes, the views that the
line chains, order queues and counts are, sets, and the placing of a response. -/

namespace Sys2Proof.Machine

/-! ## Named reads -/

/-- Port n. -/
abbrev State.port (s : State) (n : Port) : PortState := s.ports.get n

/-- Line entry i. -/
abbrev State.entry (s : State) (i : EntryIx) : Entry := s.entries.get i

/-- Read slot k. -/
abbrev State.slot (s : State) (k : SlotIx) : Slot := s.slots.get k

/-- Bundle context c. -/
abbrev State.ctx (s : State) (c : CtxIx) : Ctx := s.contexts.get c

/-- Fence record j. -/
abbrev State.fence (s : State) (j : FenceIx) : FenceRec := s.fences.get j

/-- Access record t. -/
abbrev State.access (s : State) (t : AccessTag) : AccessRec := s.accesses.get t

/-! ## Named updates -/

/-- Port n replaced. -/
def State.setPort (s : State) (n : Port) (p : PortState) : State := { s with ports := s.ports.set n p }

/-- Entry i replaced. -/
def State.setEntry (s : State) (i : EntryIx) (e : Entry) : State := { s with entries := s.entries.set i e }

/-- Slot k replaced. -/
def State.setSlot (s : State) (k : SlotIx) (x : Slot) : State := { s with slots := s.slots.set k x }

/-- Context c replaced. -/
def State.setCtx (s : State) (c : CtxIx) (x : Ctx) : State := { s with contexts := s.contexts.set c x }

/-- Fence record j replaced. -/
def State.setFence (s : State) (j : FenceIx) (f : FenceRec) : State := { s with fences := s.fences.set j f }

/-- Access record t replaced. -/
def State.setAccess (s : State) (t : AccessTag) (a : AccessRec) : State :=
  { s with accesses := s.accesses.set t a }

/-! ## States of the records -/

/-- The entry is FREE. -/
def Entry.isFree : Entry → Bool
  | .free => true
  | _ => false

/-- The entry is MEMBER. -/
def Entry.isMember : Entry → Bool
  | .member _ => true
  | _ => false

/-- The entry is PENDING. -/
def Entry.isPending : Entry → Bool
  | .pending _ => true
  | _ => false

/-- The entry is ISSUED. -/
def Entry.isIssued : Entry → Bool
  | .issued _ _ => true
  | _ => false

/-- The fields of a committed entry, PENDING or ISSUED. -/
def Entry.committed? : Entry → Option Committed
  | .free => none
  | .member _ => none
  | .pending c => some c
  | .issued c _ => some c

/-- A committed entry with its fields changed; the other states are left. -/
def Entry.mapCommitted (f : Committed → Committed) : Entry → Entry
  | .free => .free
  | .member m => .member m
  | .pending c => .pending (f c)
  | .issued c t => .issued (f c) t

/-- The entry is committed and its fields pass a test. -/
def Entry.committedWith (p : Committed → Bool) (e : Entry) : Bool := e.committed?.any p

/-- The slot is FREE. -/
def Slot.isFree : Slot → Bool
  | .free => true
  | _ => false

/-- The read of a slot that is WAITING or READY. -/
def Slot.unissued? : Slot → Option ReadRec
  | .waiting r => some r
  | .ready r => some r
  | .free => none
  | .issued _ _ _ => none

/-- The context is FREE. -/
def Ctx.isFree : Ctx → Bool
  | .free => true
  | _ => false

/-- The context is OPEN. -/
def Ctx.isOpen : Ctx → Bool
  | .opened _ => true
  | _ => false

/-- The port and lane of a context that is not FREE. -/
def Ctx.laneOf? : Ctx → Option (Port × Lane)
  | .free => none
  | .opened o => some (o.port, o.lane)
  | .aborted p l _ _ => some (p, l)

/-- The port owns the context, OPEN or ABORTED. -/
def Ctx.ownedBy (p : Port) (x : Ctx) : Bool := x.laneOf?.any fun q => q.1 == p

/-- The port owns the context, and it is OPEN. -/
def Ctx.openOf (p : Port) : Ctx → Bool
  | .opened o => o.port == p
  | _ => false

/-- The fence record is FREE. -/
def FenceRec.isFree : FenceRec → Bool
  | .free => true
  | .waiting _ => false

/-- The access record is FREE. -/
def AccessRec.isFree : AccessRec → Bool
  | .free => true
  | _ => false

/-- The access record is QUARANTINED. -/
def AccessRec.isQuarantined : AccessRec → Bool
  | .quarantined => true
  | _ => false

/-- The record is OUTSTANDING and its timer stands at a limit or above (R112, R113). -/
def AccessRec.timedOut (limit : Nat) : AccessRec → Bool
  | .outstanding _ n => limit ≤ n
  | _ => false

/-! ## Counts -/

/-- Occupancy: the number of entries that are not FREE (R13). -/
def occupancy (s : State) : Nat := s.entries.count fun e => !e.isFree

/-- The number of FREE entries. -/
def freeEntries (s : State) : Nat := s.entries.count Entry.isFree

/-- The number of MEMBER entries of all contexts together (R70). -/
def memberEntries (s : State) : Nat := s.entries.count Entry.isMember

/-- Contexts in use (R62). -/
def contextsInUse (s : State) : Nat := s.contexts.count fun x => !x.isFree

/-- Fences in use (R85). -/
def fencesInUse (s : State) : Nat := s.fences.count fun f => !f.isFree

/-- Tags quarantined (R100). -/
def tagsQuarantined (s : State) : Nat := s.accesses.count AccessRec.isQuarantined

/-- Some context is OPEN. -/
def anyOpen (s : State) : Bool := s.contexts.count Ctx.isOpen != 0

/-! ## The views of the commit order -/

/-- The committed entries that pass a test, oldest commit first. -/
def committedView (s : State) (p : Committed → Bool) : List EntryIx :=
  s.commitOrder.filter fun i => (s.entry i).committedWith p

/-- The line chain of a line (R3). -/
def lineChain (s : State) (line : Addr) : List EntryIx := committedView s fun c => c.line == line

/-- The order queue of a port (R23). -/
def orderQueue (s : State) (p : Port) : List EntryIx := committedView s fun c => c.port == p

/-- The ORDERED list (R26). -/
def orderedList (s : State) : List EntryIx := committedView s fun c => c.cls == .ordered

/-- The entries of a list that are older than an entry of it. -/
def olderIn (l : List EntryIx) (i : EntryIx) : List EntryIx := l.takeWhile fun j => j != i

/-- The entries of a list that are younger than an entry of it. -/
def youngerIn (l : List EntryIx) (i : EntryIx) : List EntryIx := (l.dropWhile fun j => j != i).drop 1

/-! ## Sets -/

/-- A set with one item added, in rising order. -/
def insertTag (t : ReqTag) (l : List ReqTag) : List ReqTag :=
  (List.finRange 16).filter fun u => u == t || l.contains u

/-- A list with every occurrence of an item removed, the others in their order. -/
def without {n : Nat} (x : Fin n) (l : List (Fin n)) : List (Fin n) := l.filter fun y => y != x

/-! ## The line index of reads: covering slots (R8, R42) -/

/-- The slot covers the line: it is WAITING or READY and its address lies within the line. -/
def Slot.covers (line : Addr) (x : Slot) : Bool := x.unissued?.any fun r => lineOf r.addr == line

/-- The numbers of the slots that cover a line (R8). -/
def coveringSlots (s : State) (line : Addr) : List SlotIx := s.slots.positions (Slot.covers line)

/-- A set of slot numbers removed from every blocked-by set (R8). -/
def unblock (gone : List SlotIx) (s : State) : State :=
  { s with entries := s.entries.mapIx fun _ e =>
      e.mapCommitted fun c => { c with blockedBy := c.blockedBy.filter fun k => !gone.contains k } }

/-! ## Responses -/

/-- A response placed at the tail of a port's response queue (R132). -/
def place (p : Port) (tag : ReqTag) (a : Answer) (s : State) : State :=
  s.setPort p { s.port p with queue := (s.port p).queue ++ [{ tag := tag, answer := a }] }

/-! ## The four ports in cyclic order -/

/-- The ports from one on, in cyclic order (R130). -/
def portsFrom (p : Port) : List Port := [p, p + 1, p + 2, p + 3]

/-! ## The frame of every command -/

/-- A command takes place unless RST_N is asserted (R138, R153, R168, R178; log 12). -/
def whileRunning (s : State) (f : State → State) : Outcome := .next (if s.inReset then s else f s)

end Sys2Proof.Machine
end

