-- ==== Sys2Proof/Machine/Flags.lean ====
section
/-! DEFINITION. The part's flags: how pressure, overflow, the port fault flags, the mode event flag and ALERT_N
follow from the state (chapters 1, 5, 8 and 9). -/

namespace Sys2Proof.Machine

/-- The pressure flag after an evaluation against the current occupancy (R14). -/
def pressureAfter (s : State) : Bool :=
  if s.config.highMark ≤ occupancy s then true
  else if occupancy s ≤ s.config.lowMark then false
  else s.pressure

/-- The pressure flag evaluated (R14). -/
def evalPressure (s : State) : State := { s with pressure := pressureAfter s }

/-- QUIESCING with occupancy 0 becomes QUIESCED, and the mode event flag is set (R149, R163). -/
def reachQuiesced (s : State) : State :=
  if s.mode = .quiescing ∧ occupancy s = 0 then { s with mode := .quiesced, modeEvent := true } else s

/-- What follows a fall of occupancy: the pressure flag is evaluated and QUIESCED may be reached (R14, R149). -/
def afterRelease (s : State) : State := reachQuiesced (evalPressure s)

/-- The port fault flag of a port set (R95). -/
def setPortFault (p : Port) (s : State) : State := s.setPort p { s.port p with portFault := true }

/-- A failed drain at the fault list: a record at the tail, or the overflow flag where the list is full (R158). -/
def recordFault (r : FaultRecord) (s : State) : State :=
  if s.faultList.length < Config.faultListSize then { s with faultList := s.faultList ++ [r] }
  else { s with overflow := true }

/-- Every flag of R164 cleared. -/
def clearAllFlags (s : State) : State :=
  { s with
    ports := s.ports.mapIx fun _ p => { p with violation := false, portFault := false }
    overflow := false
    stray := false
    modeEvent := false }

/-- Some port's violation flag is set. -/
def anyViolation (s : State) : Bool := s.ports.count (fun p => p.violation) != 0

/-- ALERT_N is asserted, driven low (R166). -/
def alertAsserted (s : State) : Bool :=
  (!s.faultList.isEmpty && s.config.alertMask.fault) ||
  (s.overflow && s.config.alertMask.fault) ||
  (anyViolation s && s.config.alertMask.violation) ||
  (s.stray && s.config.alertMask.stray) ||
  (s.modeEvent && s.config.alertMask.mode)

end Sys2Proof.Machine
end

