-- ==== Sys2Proof/Machine/Fences.lean ====
section
/-! DEFINITION. The fence table: acceptance, wait sets, answers (chapter 5). -/

namespace Sys2Proof.Machine

/-- The two kinds of fence. -/
inductive FenceKind where
  | port
  | all
deriving DecidableEq, Repr

/-- The wait set a fence captures: the committed entries of its port, or of every port (R88). -/
def waitSetOf (s : State) (k : FenceKind) (p : Port) : List EntryIx :=
  s.entries.positions (Entry.committedWith fun c => k == .all || c.port == p)

/-- The answer of a fence by its fault seen mark (R90, R91). -/
def fenceAnswer (faultSeen : Bool) : Answer := if faultSeen then .fault .postedFault else .done

/-- The port fault flag consumed by a FENCE-PORT (R89); a FENCE-ALL leaves it. -/
def consumePortFault (k : FenceKind) (p : Port) (s : State) : State :=
  match k with
  | .port => s.setPort p { s.port p with portFault := false }
  | .all => s

/-- The record a fence fills: FENCE-PORT takes its fault seen mark from the port fault flag (R89). -/
def newFence (s : State) (k : FenceKind) (p : Port) (tag : ReqTag) : FenceWait :=
  { port := p, tag := tag, accepted := s.nextFence, waitSet := waitSetOf s k p,
    faultSeen := k == .port && (s.port p).portFault }

/-- A fence accepted into record `j` (R88, R89), answered at once where its set is empty (R90). -/
def fenceAccepted (s : State) (k : FenceKind) (p : Port) (tag : ReqTag) (j : FenceIx) : State :=
  let w := newFence s k p tag
  let t := { consumePortFault k p s with nextFence := s.nextFence + 1 }
  if w.waitSet = [] then place p tag (fenceAnswer w.faultSeen) t else t.setFence j (.waiting w)

/-- A fence at its acceptance, the rows of R87 in their order. -/
def fencePresented (s : State) (k : FenceKind) (p : Port) (tag : ReqTag) : State :=
  if s.contexts.count (Ctx.openOf p) ≠ 0 then place p tag (.refused .fenceInBundle) s
  else
    match s.fences.lowest FenceRec.isFree with
    | none => place p tag (.retry .noFence) s
    | some j => fenceAccepted s k p tag j

/-! ## Leaving wait sets and answering (R91 to R93) -/

/-- A fence record after an entry left its wait set, marked where the entry failed (R92). -/
def FenceRec.leave (i : EntryIx) (failed : Bool) : FenceRec → FenceRec
  | .free => .free
  | .waiting w =>
    if w.waitSet.contains i then
      .waiting { w with waitSet := without i w.waitSet, faultSeen := w.faultSeen || failed }
    else .waiting w

/-- An entry leaves every wait set that holds it (R91, R92). -/
def leaveFences (i : EntryIx) (failed : Bool) (s : State) : State :=
  { s with fences := s.fences.mapIx fun _ f => f.leave i failed }

/-- The record is WAITING and its wait set is empty: it is to be answered now. -/
def FenceRec.isEmptied : FenceRec → Bool
  | .free => false
  | .waiting w => w.waitSet.isEmpty

/-- The order in which a record's fence was accepted. -/
def FenceRec.acceptedOrder : FenceRec → Nat
  | .free => 0
  | .waiting w => w.accepted

/-- A record placed in a list by its acceptance order. -/
def insertByAccepted (s : State) (j : FenceIx) : List FenceIx → List FenceIx
  | [] => [j]
  | k :: rest =>
    if (s.fence j).acceptedOrder ≤ (s.fence k).acceptedOrder then j :: k :: rest
    else k :: insertByAccepted s j rest

/-- The emptied records, in the order in which their fences were accepted (R93). -/
def emptiedFences (s : State) : List FenceIx :=
  (s.fences.positions FenceRec.isEmptied).foldr (insertByAccepted s) []

/-- A record answered and made FREE (R91). -/
def answerFence (s : State) (j : FenceIx) : State :=
  match s.fence j with
  | .waiting w => place w.port w.tag (fenceAnswer w.faultSeen) (s.setFence j .free)
  | .free => s

/-- Every emptied record answered, in acceptance order (R91, R93). -/
def answerEmptied (s : State) : State := (emptiedFences s).foldl answerFence s

/-- The entry lies in the wait set of a WAITING record: the fence cause of due-ness (R31). -/
def inWaitSet (s : State) (i : EntryIx) : Bool :=
  s.fences.items.any fun f =>
    match f with
    | .waiting w => w.waitSet.contains i
    | .free => false

end Sys2Proof.Machine
end

