-- ==== Sys2Proof/Machine/Windows.lean ====
section
/-! DEFINITION. The window table: lookup of an address's class, the PASS override, alignment, and the
configuration interlock (chapter 8, sections 8.1, 8.2, 8.5). -/

namespace Sys2Proof.Machine

/-- The window is enabled and its range holds the address (R140, R142). -/
def Window.holds (a : Addr) (w : Window) : Bool :=
  w.enabled && w.base.toNat ≤ a.toNat && a.toNat < w.base.toNat + 2 ^ w.exponent

/-- The class of an address: that of the lowest-numbered enabled window that holds it, else DEFAULT_CLASS (R142). -/
def classOf (s : State) (a : Addr) : WClass :=
  match s.windows.items.find? (Window.holds a) with
  | some w => w.cls
  | none => s.config.defaultClass

/-- The class of a plain write: THROUGH in PASS, whatever the lookup gives (R144). -/
def plainClass (s : State) (a : Addr) : WClass := if s.mode = .pass then .through else classOf s a

/-- A base that is a multiple of the window's size (R140). -/
def aligned (base : Addr) (exponent : Nat) : Bool := base.toNat % 2 ^ exponent == 0

/-- The interlock of the window objects, DEFAULT_CLASS, RESERVE and BUNDLE_QUOTA passes (R152). -/
def interlockPasses (s : State) : Bool :=
  (s.mode == .quiesced && !anyOpen s) || (s.mode == .pass && occupancy s == 0)

end Sys2Proof.Machine
end

