-- ==== Sys2Proof/Machine/Reads.lean ====
section
/-! DEFINITION. The read tracker: snapshots, forwarded and ORDERED reads, and the end of a slot's access
(chapter 3). -/

namespace Sys2Proof.Machine

/-! ## Snapshot composition (R45, R46) -/

/-- The mask and bytes that one entry lays over a line. -/
def Entry.layer? : Entry → Option (ByteMask × LineData)
  | .free => none
  | .member m => some (m.mask, m.data)
  | .pending c => some (c.mask, c.data)
  | .issued c _ => some (c.mask, c.data)

/-- The layers of the line's chain, oldest first (R45). -/
def chainLayers (s : State) (line : Addr) : List (ByteMask × LineData) :=
  (lineChain s line).filterMap fun i => (s.entry i).layer?

/-- The layer of a context's member on a line, for the OPEN contexts of a port with a given rank (R46). -/
def ctxLayers (s : State) (p : Port) (r : Rank) (line : Addr) (x : Ctx) : List (ByteMask × LineData) :=
  match x with
  | .opened o =>
    if o.port = p ∧ o.rank = r then
      o.members.filterMap fun i =>
        match s.entry i with
        | .member m => if m.line = line then some (m.mask, m.data) else none
        | _ => none
    else []
  | _ => []

/-- The layers of the reading port's own members: its FIRST context before its SECOND (R46). -/
def ownLayers (s : State) (p : Port) (line : Addr) : List (ByteMask × LineData) :=
  s.contexts.items.flatMap (ctxLayers s p .first line) ++ s.contexts.items.flatMap (ctxLayers s p .second line)

/-- The byte at a position under a list of layers, the last that selects it on top; `none` where none does. -/
def overlayByte (layers : List (ByteMask × LineData)) (pos : Nat) : Option Byte :=
  layers.foldl (fun acc x => if selects x.1 pos then some (byteAt x.2 pos) else acc) none

/-- The snapshot of a forwarded read: one item per requested byte (R45, R46). -/
def snapshotOf (s : State) (p : Port) (addr : Addr) (len : Nat) : List (Option Byte) :=
  (List.range len).map fun i =>
    overlayByte (chainLayers s (lineOf addr) ++ ownLayers s p (lineOf addr)) (lineOffset addr + i)

/-- Every requested byte is covered (R47). -/
def fullyCovered (snap : List (Option Byte)) : Bool := snap.all Option.isSome

/-- The bytes of a snapshot whose every byte is covered (R47). -/
def coveredBytes (snap : List (Option Byte)) : List Byte := snap.filterMap id

/-! ## Acceptance -/

/-- The port's read sequence number used and advanced (R49). -/
def bumpSeq (p : Port) (s : State) : State := s.setPort p { s.port p with nextSeq := (s.port p).nextSeq + 1 }

/-- The record of a read as its slot keeps it (R42). -/
def readRec (s : State) (p : Port) (tag : ReqTag) (addr : Addr) (len : Nat) (snap : List (Option Byte))
    (waitsFor : Option (List EntryIx)) : ReadRec :=
  { port := p, tag := tag, addr := addr, len := len, seq := (s.port p).nextSeq, snapshot := snap,
    waitsFor := waitsFor }

/-- A forwarded read: answered from the buffer when fully covered (R47), else given the lowest FREE slot, READY,
else waiting (R48). -/
def forwardedReadPresented (s : State) (p : Port) (tag : ReqTag) (addr : Addr) (len : Nat) : Option State :=
  let snap := snapshotOf s p addr len
  if fullyCovered snap then some (bumpSeq p (place p tag (.doneRead (coveredBytes snap) .buffer) s))
  else
    (s.slots.lowest Slot.isFree).map fun k =>
      bumpSeq p (s.setSlot k (.ready (readRec s p tag addr len snap none)))

/-- The entry is PENDING and stands in the ORDERED list or in the line's chain (R51). -/
def Entry.awaited (line : Addr) : Entry → Bool
  | .pending c => c.cls == .ordered || c.line == line
  | _ => false

/-- The waits-for set an ORDERED read captures: PENDING entries of the ORDERED list or of the line's chain (R51). -/
def waitsForSet (s : State) (line : Addr) : List EntryIx := s.entries.positions (Entry.awaited line)

/-- An ORDERED read: the lowest FREE slot, WAITING or READY by its waits-for set, else waiting (R51). -/
def orderedReadPresented (s : State) (p : Port) (tag : ReqTag) (addr : Addr) (len : Nat) : Option State :=
  (s.slots.lowest Slot.isFree).map fun k =>
    let w := waitsForSet s (lineOf addr)
    let r := readRec s p tag addr len (List.replicate len none) (some w)
    bumpSeq p (s.setSlot k (if w = [] then .ready r else .waiting r))

/-- A READ that passed or failed the format check (R126), by the class of its address (R44, R127). -/
def readPresented (s : State) (p : Port) (tag : ReqTag) (addr : Addr) (len : Nat) : Option State :=
  if spanFails addr len then some (place p tag (.refused .span) s)
  else if classOf s addr = .ordered then orderedReadPresented s p tag addr len
  else forwardedReadPresented s p tag addr len

/-! ## Candidates, waits-for sets and the end of an access -/

/-- The slot is a READY slot of the port. -/
def Slot.readyOf (p : Port) : Slot → Bool
  | .ready r => r.port == p
  | _ => false

/-- The sequence of a slot's read. -/
def Slot.seq : Slot → Nat
  | .free => 0
  | .waiting r => r.seq
  | .ready r => r.seq
  | .issued r _ _ => r.seq

/-- The port's read candidate: its READY slot with the lowest sequence (R49). -/
def readCandidate (s : State) (p : Port) : Option SlotIx :=
  (s.slots.positions (Slot.readyOf p)).foldl
    (fun best k =>
      match best with
      | none => some k
      | some b => if (s.slot k).seq < (s.slot b).seq then some k else some b)
    none

/-- A read record without an entry in its waits-for set (R52). -/
def ReadRec.dropWait (i : EntryIx) (r : ReadRec) : ReadRec := { r with waitsFor := r.waitsFor.map (without i) }

/-- A slot after an entry was issued: the entry leaves its waits-for set, and a WAITING slot whose set becomes
empty becomes READY (R52). -/
def Slot.dropWait (i : EntryIx) : Slot → Slot
  | .free => .free
  | .waiting r => if (r.dropWait i).waitsFor.getD [] = [] then .ready (r.dropWait i) else .waiting (r.dropWait i)
  | .ready r => .ready (r.dropWait i)
  | .issued r t o => .issued r t o

/-- An issued entry leaves every waits-for set (R52). -/
def dropWaits (i : EntryIx) (s : State) : State := { s with slots := s.slots.mapIx fun _ x => x.dropWait i }

/-- How an access ended (R110, R112). -/
inductive AccessEnd where
  | ok (data : BitVec 256)
  | error
  | timeout
deriving DecidableEq, Repr

/-- Snapshot bytes where covered, the response's bytes elsewhere (R54). -/
def mergeBytes (snap : List (Option Byte)) (data : BitVec 256) : List Byte :=
  snap.zipIdx.map fun x => x.1.getD (fieldByte data x.2)

/-- The source of a merged read: MIXED when some requested byte was covered (R54). -/
def mergeSource (snap : List (Option Byte)) : Source := if snap.any Option.isSome then .mixed else .memory

/-- The answer to a read whose access ended (R54, R55, R56). -/
def readAnswer (r : ReadRec) : AccessEnd → Answer
  | .ok data => .doneRead (mergeBytes r.snapshot data) (mergeSource r.snapshot)
  | .error => .fault .memError
  | .timeout => .fault .memTimeout

/-- The end of a slot's access: the slot becomes FREE and its port is answered, unless it is orphaned (R54 to R56,
R60). -/
def endRead (k : SlotIx) (e : AccessEnd) (s : State) : State :=
  match s.slot k with
  | .issued r _ false => place r.port r.tag (readAnswer r e) (s.setSlot k .free)
  | .issued _ _ true => s.setSlot k .free
  | _ => s

end Sys2Proof.Machine
end

