-- ==== Sys2Proof/Machine/Bundles.lean ====
section
/-! DEFINITION. The bundle table: opening, member writes, close, cancel and abort (chapter 4). A function that ends
in the word `Presented` is the owner's decision on a presented head request: the state after its acceptance, or
`none` where the request waits (R127). -/

namespace Sys2Proof.Machine

/-! ## Contexts, lanes and ranks -/

/-- The context on a lane, if the lane is busy (R64). -/
def contextOn (s : State) (p : Port) (l : Lane) : Option CtxIx :=
  s.contexts.lowest fun x => x.laneOf? == some (p, l)

/-- The rank of a context that is not FREE (R64). -/
def Ctx.rank? : Ctx → Option Rank
  | .free => none
  | .opened o => some o.rank
  | .aborted _ _ r _ => some r

/-- The context with rank FIRST (R64). -/
def Ctx.asFirst : Ctx → Ctx
  | .free => .free
  | .opened o => .opened { o with rank := .first }
  | .aborted p l _ r => .aborted p l .first r

/-- The rank a newly opened context of a port takes: SECOND where the port owns another (R64). -/
def newRank (s : State) (p : Port) : Rank :=
  if s.contexts.count (Ctx.ownedBy p) = 0 then .first else .second

/-- A context made FREE; where its rank was FIRST, its port's context of rank SECOND becomes FIRST (R64). -/
def freeCtx (c : CtxIx) (s : State) : State :=
  match (s.ctx c).laneOf?, (s.ctx c).rank? with
  | some (p, _), some .first =>
    { s with contexts := (s.contexts.set c .free).mapIx fun _ x => if x.ownedBy p then x.asFirst else x }
  | _, _ => s.setCtx c .free

/-! ## Release, abort, commit -/

/-- The entries of a list become FREE together (R6, R77). -/
def releaseEntries (l : List EntryIx) (s : State) : State :=
  { s with entries := s.entries.mapIx fun i e => if l.contains i then .free else e }

/-- The abort of an OPEN context (R77); a context that is not OPEN is left. -/
def abortCtx (c : CtxIx) (reason : AbortReason) (s : State) : State :=
  match s.ctx c with
  | .opened o =>
    afterRelease ((releaseEntries o.members s).setCtx c (.aborted o.port o.lane o.rank reason))
  | _ => s

/-- A MEMBER entry as the close commits it (R74): PENDING, from-bundle set, age 0, blocked by the slots that cover
its line at this moment (R8). -/
def commitMember (s : State) : Entry → Entry
  | .member m =>
    .pending
      { line := m.line, data := m.data, mask := m.mask, cls := .post, port := m.port, replyTag := none,
        fromBundle := true, age := 0, blockedBy := coveringSlots s m.line }
  | e => e

/-- The members of a list commit in one event, in list order (R24, R74). -/
def commitMembers (l : List EntryIx) (s : State) : State :=
  { s with
    entries := s.entries.mapIx fun i e => if l.contains i then commitMember s e else e
    commitOrder := s.commitOrder ++ l }

/-! ## Bundle requests -/

/-- B-OPEN at its acceptance (R65), the rows of the table in their order. -/
def bOpenPresented (s : State) (p : Port) (tag : ReqTag) (l : Lane) : State :=
  if s.mode = .pass then place p tag (.refused .mode) s
  else if s.mode = .quiescing ∨ s.mode = .quiesced then place p tag (.retry .quiesce) s
  else if (contextOn s p l).isSome then place p tag (.refused .laneBusy) s
  else
    match s.contexts.lowest Ctx.isFree with
    | none => place p tag (.retry .noContext) s
    | some c =>
      place p tag .done
        (s.setCtx c (.opened { port := p, lane := l, rank := newRank s p, members := [], idle := 0 }))

/-- B-CLOSE at its acceptance (R74, R75). -/
def bClosePresented (s : State) (p : Port) (tag : ReqTag) (l : Lane) : State :=
  match contextOn s p l with
  | none => place p tag (.refused .noBundle) s
  | some c =>
    match s.ctx c with
    | .free => place p tag (.refused .noBundle) s
    | .opened o => place p tag .done (freeCtx c (commitMembers o.members s))
    | .aborted _ _ _ reason => place p tag (.aborted reason) (freeCtx c s)

/-- B-CANCEL at its acceptance (R76). -/
def bCancelPresented (s : State) (p : Port) (tag : ReqTag) (l : Lane) : State :=
  match contextOn s p l with
  | none => place p tag (.refused .noBundle) s
  | some c =>
    match s.ctx c with
    | .free => place p tag (.refused .noBundle) s
    | .opened o => place p tag .done (afterRelease (freeCtx c (releaseEntries o.members s)))
    | .aborted _ _ _ _ => place p tag .done (freeCtx c s)

/-! ## Member writes -/

/-- The member of a context on a line, with its fields (R68). -/
def memberOn (s : State) (o : OpenCtx) (line : Addr) : Option (EntryIx × Member) :=
  o.members.findSome? fun i =>
    match s.entry i with
    | .member m => if m.line = line then some (i, m) else none
    | _ => none

/-- A member write laid over the context's member on its line (R68). -/
def overlayMember (c : CtxIx) (o : OpenCtx) (i : EntryIx) (m : Member) (mask : ByteMask) (data : LineData)
    (s : State) : State :=
  (s.setEntry i (.member { m with data := layOver m.data mask data, mask := m.mask ||| mask })).setCtx c
    (.opened { o with idle := 0 })

/-- A member write that is allocated a new member (R72). -/
def allocateMember (c : CtxIx) (o : OpenCtx) (i : EntryIx) (line : Addr) (mask : ByteMask) (data : LineData)
    (s : State) : State :=
  evalPressure
    ((s.setEntry i (.member { line := line, data := data, mask := mask, port := o.port })).setCtx c
      (.opened { o with members := o.members ++ [i], idle := 0 }))

/-- A member write that needs a new member: quota, space and reserve in that order (R69 to R72). -/
def newMemberPresented (s : State) (p : Port) (tag : ReqTag) (c : CtxIx) (o : OpenCtx) (line : Addr)
    (mask : ByteMask) (data : LineData) : Option State :=
  if s.config.bundleQuota ≤ o.members.length then some (place p tag .void (abortCtx c .quota s))
  else if Config.entryCount - s.config.reserve ≤ memberEntries s then
    some (place p tag .void (abortCtx c .space s))
  else if freeEntries s < s.config.reserve + 1 then none
  else
    (s.entries.lowest Entry.isFree).map fun i => place p tag .done (allocateMember c o i line mask data s)

/-- A member write on an OPEN lane (R67, R68). -/
def openMemberPresented (s : State) (p : Port) (tag : ReqTag) (c : CtxIx) (o : OpenCtx) (addr : Addr)
    (mask : ByteMask) (data : LineData) : Option State :=
  if classOf s addr = .post then
    match memberOn s o (lineOf addr) with
    | some (i, m) => some (place p tag .done (overlayMember c o i m mask data s))
    | none => newMemberPresented s p tag c o (lineOf addr) mask data
  else some (place p tag (.refused .cls) (abortCtx c .cls s))

/-- A member write, sorted by the state of its lane (R66). -/
def memberWritePresented (s : State) (p : Port) (tag : ReqTag) (l : Lane) (addr : Addr) (mask : ByteMask)
    (data : LineData) : Option State :=
  match contextOn s p l with
  | none => some (place p tag (.refused .noBundle) s)
  | some c =>
    match s.ctx c with
    | .free => some (place p tag (.refused .noBundle) s)
    | .aborted _ _ _ _ => some (place p tag .void s)
    | .opened o => openMemberPresented s p tag c o addr mask data

/-! ## Idle expiry and management abort -/

/-- The context is OPEN and its idle timer stands at a limit or above (R79, R80). -/
def Ctx.idledOut (limit : Nat) : Ctx → Bool
  | .opened o => limit ≤ o.idle
  | _ => false

/-- The idle expiry of a context at a tick, after the timers advanced (R79); nothing below IDLE_LIMIT. -/
def expireIdle (c : CtxIx) (s : State) : State :=
  if (s.ctx c).idledOut s.config.idleLimit then abortCtx c .idle s else s

/-- Every OPEN context aborted with reason MAINT (R81). -/
def abortAllBundles (s : State) : State :=
  (s.contexts.positions Ctx.isOpen).foldl (fun t c => abortCtx c .maint t) s

end Sys2Proof.Machine
end

