-- ==== Sys2Proof/Machine/Writes.lean ====
section
/-! DEFINITION. Plain writes at the posting buffer: combining, allocation and commit (chapter 1). -/

namespace Sys2Proof.Machine

/-- The combining target of a plain write, when it passes every condition of R10: the tail of the port's order
queue (R9), PENDING, POST like the write, youngest of its line chain, on the write's line, and on a line that no
slot covers. -/
def combineTarget (s : State) (p : Port) (cls : WClass) (line : Addr) : Option (EntryIx × Committed) :=
  match (orderQueue s p).getLast? with
  | none => none
  | some i =>
    match s.entry i with
    | .pending c =>
      if c.cls = .post ∧ cls = .post ∧ (lineChain s c.line).getLast? = some i ∧ c.line = line ∧
          coveringSlots s line = [] then some (i, c)
      else none
    | _ => none

/-- A write combined into an entry (R11). -/
def combineInto (i : EntryIx) (c : Committed) (mask : ByteMask) (data : LineData) (s : State) : State :=
  s.setEntry i (.pending { c with data := layOver c.data mask data, mask := c.mask ||| mask })

/-- The entry a plain write is allocated (R7), blocked by the slots that cover its line (R8). -/
def newEntry (s : State) (p : Port) (tag : ReqTag) (cls : WClass) (line : Addr) (mask : ByteMask)
    (data : LineData) : Committed :=
  { line := line, data := data, mask := mask, cls := cls, port := p,
    replyTag := if cls = .through then some tag else none,
    fromBundle := false, age := 0, blockedBy := coveringSlots s line }

/-- A plain write allocated entry `i`: it commits at once, as the youngest of its chain, its order queue and, when
ORDERED, the ORDERED list, and the pressure flag is evaluated (R7). -/
def allocatePlain (i : EntryIx) (c : Committed) (s : State) : State :=
  evalPressure { s.setEntry i (.pending c) with commitOrder := s.commitOrder ++ [i] }

/-- A plain write at the buffer (R5): combined, allocated the lowest FREE entry (R6), or waiting. A THROUGH write
is answered at its retirement (R7). -/
def plainWritePresented (s : State) (p : Port) (tag : ReqTag) (addr : Addr) (mask : ByteMask)
    (data : LineData) : Option State :=
  match combineTarget s p (plainClass s addr) (lineOf addr) with
  | some (i, c) => some (place p tag .done (combineInto i c mask data s))
  | none =>
    (s.entries.lowest Entry.isFree).map fun i =>
      let t := allocatePlain i (newEntry s p tag (plainClass s addr) (lineOf addr) mask data) s
      if plainClass s addr = .through then t else place p tag .done t

/-- A WRITE that passed the format checks waits in QUIESCING and QUIESCED whatever its lane (R128), and goes to
the buffer or to the bundle table otherwise (R127). -/
def writePresented (s : State) (p : Port) (tag : ReqTag) (addr : Addr) (lane : Option Lane) (mask : ByteMask)
    (data : LineData) : Option State :=
  if s.mode = .quiescing ∨ s.mode = .quiesced then none
  else
    match lane with
    | none => plainWritePresented s p tag addr mask data
    | some l => memberWritePresented s p tag l addr mask data

end Sys2Proof.Machine
end

