-- ==== Sys2Proof/Machine/Intake.lean ====
section
/-! DEFINITION. The intake: presentation of head requests, the round-robin scan, acceptance, and the nine acceptance
commands (chapter 7, sections 7.2 and 7.3). -/

namespace Sys2Proof.Machine

/-- The owner's decision on a presented request: the state with the owner's effects and any response made at
acceptance, or `none` where the request waits (R126 to R129). -/
def present (s : State) (p : Port) (r : Request) : Option State :=
  match r.body with
  | .read addr len => readPresented s p r.tag addr len
  | .write addr lane mask data =>
    if emptyFails mask then some (place p r.tag (.refused .empty) s)
    else writePresented s p r.tag addr lane mask data
  | .fencePort => some (fencePresented s .port p r.tag)
  | .fenceAll => some (fencePresented s .all p r.tag)
  | .bOpen l => some (bOpenPresented s p r.tag l)
  | .bClose l => some (bClosePresented s p r.tag l)
  | .bCancel l => some (bCancelPresented s p r.tag l)

/-- The port has a head request that can be taken as the state stands, and is not held in reset (R130, R136). -/
def takeable (s : State) (p : Port) : Bool :=
  !(s.port p).held && ((s.port p).head.any fun r => (present s p r).isSome)

/-- The head waiting condition: a head request that cannot be taken as the state stands (R129, R139). -/
def headWaiting (s : State) (p : Port) : Bool := (s.port p).head.any fun r => (present s p r).isNone

/-- The port that the intake's scan grants: the first takeable one in cyclic order from the pointer (R130). -/
def granted (s : State) : Option Port := (portsFrom s.intakePtr).find? (takeable s)

/-- What every acceptance does at the port and at the intake: the head request is gone, its tag is outstanding,
and the pointer names the port after (R122, R125, R130). -/
def accepted (p : Port) (tag : ReqTag) (s : State) : State :=
  { s.setPort p { s.port p with head := none, outstanding := insertTag tag (s.port p).outstanding } with
    intakePtr := p + 1 }

/-- The acceptance of the granted head request, where it is one that the row speaks of; otherwise the event does
not take place (log 1). -/
def acceptWhere (row : State → ReqBody → Bool) (s : State) : State :=
  match granted s with
  | none => s
  | some p =>
    match (s.port p).head with
    | none => s
    | some r =>
      if row s r.body then
        match present s p r with
        | some t => accepted p r.tag t
        | none => s
      else s

/-! ## Which head requests a row speaks of -/

/-- A READ of class POST or THROUGH; a READ that fails the format check belongs to either read row (log 9). -/
def rowForwardedRead (s : State) : ReqBody → Bool
  | .read addr len => spanFails addr len || classOf s addr != .ordered
  | _ => false

/-- A READ of class ORDERED (log 9 as above). -/
def rowOrderedRead (s : State) : ReqBody → Bool
  | .read addr len => spanFails addr len || classOf s addr == .ordered
  | _ => false

/-- A WRITE with lane NONE. -/
def rowPlainWrite (_ : State) : ReqBody → Bool
  | .write _ none _ _ => true
  | _ => false

/-- A WRITE with lane L0 or L1. -/
def rowMemberWrite (_ : State) : ReqBody → Bool
  | .write _ (some _) _ _ => true
  | _ => false

/-- A FENCE-PORT. -/
def rowFencePort (_ : State) : ReqBody → Bool
  | .fencePort => true
  | _ => false

/-- A FENCE-ALL. -/
def rowFenceAll (_ : State) : ReqBody → Bool
  | .fenceAll => true
  | _ => false

/-- A B-OPEN. -/
def rowBOpen (_ : State) : ReqBody → Bool
  | .bOpen _ => true
  | _ => false

/-- A B-CLOSE. -/
def rowBClose (_ : State) : ReqBody → Bool
  | .bClose _ => true
  | _ => false

/-- A B-CANCEL. -/
def rowBCancel (_ : State) : ReqBody → Bool
  | .bCancel _ => true
  | _ => false

/-! ## The acceptance commands -/

/-- FORWARDED_READ (R45 to R48, R126). -/
def execForwardedRead (s : State) : Outcome := whileRunning s (acceptWhere rowForwardedRead)

/-- ORDERED_READ (R51, R126). -/
def execOrderedRead (s : State) : Outcome := whileRunning s (acceptWhere rowOrderedRead)

/-- PLAIN_WRITE (R5 to R11, R126, R144). -/
def execPlainWrite (s : State) : Outcome := whileRunning s (acceptWhere rowPlainWrite)

/-- MEMBER_WRITE (R66 to R72, R126). -/
def execMemberWrite (s : State) : Outcome := whileRunning s (acceptWhere rowMemberWrite)

/-- FENCE_PORT (R87 to R90). -/
def execFencePort (s : State) : Outcome := whileRunning s (acceptWhere rowFencePort)

/-- FENCE_ALL (R87, R88, R90). -/
def execFenceAll (s : State) : Outcome := whileRunning s (acceptWhere rowFenceAll)

/-- B_OPEN (R65). -/
def execBOpen (s : State) : Outcome := whileRunning s (acceptWhere rowBOpen)

/-- B_CLOSE (R74, R75). -/
def execBClose (s : State) : Outcome := whileRunning s (acceptWhere rowBClose)

/-- B_CANCEL (R76). -/
def execBCancel (s : State) : Outcome := whileRunning s (acceptWhere rowBCancel)

end Sys2Proof.Machine
end

