-- ==== Sys2Proof/Machine/MemoryPort.lean ====
section
/-! DEFINITION. Due-ness, eligibility and drain candidates (chapter 2), and the memory port: the issue arbiter,
issues, responses, timeouts and quarantine (chapter 6), with retirement and failure (chapter 1, section 1.6). -/

namespace Sys2Proof.Machine

/-! ## Due-ness (R30 to R33) -/

/-- A PENDING entry is due by its own cause: class, age, pressure, fence or quiesce (R30). -/
def ownCause (s : State) (i : EntryIx) (c : Committed) : Bool :=
  c.cls != .post || s.config.ageLimit ≤ c.age || s.pressure || inWaitSet s i || s.mode == .quiescing

/-- The entry is PENDING and due by its own cause. -/
def dueByOwn (s : State) (i : EntryIx) : Bool :=
  match s.entry i with
  | .pending c => ownCause s i c
  | _ => false

/-- The entry is PENDING and due: by its own cause, or by that of a younger entry of its port's queue (R32). -/
def isDue (s : State) (i : EntryIx) : Bool :=
  match s.entry i with
  | .pending c => ownCause s i c || (youngerIn (orderQueue s c.port) i).any (dueByOwn s)
  | _ => false

/-! ## Eligibility and candidates (R4, R34, R35) -/

/-- The line chain holds an older entry in PENDING state (R4). -/
def heldByLine (s : State) (line : Addr) (i : EntryIx) : Bool :=
  (olderIn (lineChain s line) i).any fun j => (s.entry j).isPending

/-- Every older entry of a list is ISSUED (R34). -/
def olderIssued (s : State) (l : List EntryIx) (i : EntryIx) : Bool :=
  (olderIn l i).all fun j => (s.entry j).isIssued

/-- The entry is eligible for issue: every condition of R34. -/
def eligible (s : State) (i : EntryIx) : Bool :=
  match s.entry i with
  | .pending c =>
    isDue s i && olderIssued s (orderQueue s c.port) i && c.blockedBy.isEmpty &&
      (c.cls != .ordered || olderIssued s (orderedList s) i) && !heldByLine s c.line i
  | _ => false

/-- The port's oldest PENDING entry (R35). -/
def oldestPending (s : State) (p : Port) : Option EntryIx :=
  (orderQueue s p).find? fun i => (s.entry i).isPending

/-- The drain candidate of a port: its oldest PENDING entry, when eligible (R35). -/
def drainCandidate (s : State) (p : Port) : Option EntryIx := (oldestPending s p).filter (eligible s)

/-! ## The arbiter (R104, R106, R107) -/

/-- Some port has a read candidate. -/
def anyReadCandidate (s : State) : Bool := (List.finRange 4).any fun p => (readCandidate s p).isSome

/-- Some port has a drain candidate. -/
def anyDrainCandidate (s : State) : Bool := (List.finRange 4).any fun p => (drainCandidate s p).isSome

/-- DRAIN is chosen (R104): no read candidate exists, or both exist and pressure follows a read or the read-run
count has reached READ_RUN_LIMIT. -/
def choosesDrain (s : State) : Bool :=
  anyDrainCandidate s &&
    (!anyReadCandidate s || (s.pressure && s.arbiter.lastClass == .read) ||
      s.config.readRunLimit ≤ s.arbiter.readRun)

/-- The positions of the high ring from one on, in cyclic order; position 4 is LOW (R106). -/
def highPositions (h : Fin 5) : List (Fin 5) := [h, h + 1, h + 2, h + 3, h + 4]

/-- What the scan finds at one position of the high ring: a high-group port with a candidate, or at LOW the first
low-group port with one (R106). The Bool says that the grant is to a low-group port. -/
def scanPosition (low : Table Bool 4) (lowPtr : Fin 4) (has : Port → Bool) (pos : Fin 5) : Option (Port × Bool) :=
  if pos = 4 then ((portsFrom lowPtr).find? fun q => low.get q && has q).map fun q => (q, true)
  else
    let p : Port := Fin.ofNat 4 pos.val
    if !low.get p && has p then some (p, false) else none

/-- The scan of a class's rings (R106). -/
def scanRings (low : Table Bool 4) (ptrs : RingPtrs) (has : Port → Bool) : Option (Port × Bool) :=
  (highPositions ptrs.high).findSome? (scanPosition low ptrs.low has)

/-- The class's pointers after a grant (R107). -/
def movePtrs (ptrs : RingPtrs) (g : Port × Bool) : RingPtrs :=
  if g.2 then { high := 0, low := g.1 + 1 } else { ptrs with high := g.1.castSucc + 1 }

/-- What the arbiter would grant: the owner of the access, and the arbiter's state after the grant (R104, R107). -/
structure Grant where
  owner : Owner
  arbiter : Arbiter
deriving DecidableEq, Repr

/-- A grant in class DRAIN (R107, R109). -/
def drainGrant (s : State) : Option Grant :=
  match scanRings s.config.portLow s.arbiter.drains fun p => (drainCandidate s p).isSome with
  | none => none
  | some g =>
    (drainCandidate s g.1).map fun i =>
      { owner := .write i
        arbiter := { s.arbiter with readRun := 0, lastClass := .drain, drains := movePtrs s.arbiter.drains g } }

/-- A grant in class READ (R107, R109). -/
def readGrant (s : State) : Option Grant :=
  match scanRings s.config.portLow s.arbiter.reads fun p => (readCandidate s p).isSome with
  | none => none
  | some g =>
    (readCandidate s g.1).map fun k =>
      { owner := .read k
        arbiter :=
          { s.arbiter with
            readRun := min (s.arbiter.readRun + 1) Config.readRunCeiling
            lastClass := .read
            reads := movePtrs s.arbiter.reads g } }

/-- The arbiter's choice as the state stands (R102, R104, R106). -/
def chosenGrant (s : State) : Option Grant := if choosesDrain s then drainGrant s else readGrant s

/-! ## Issue (R102, R109) -/

/-- The PENDING entry becomes ISSUED under a tag (R16), and leaves every waits-for set (R38, R52). -/
def issueEntry (i : EntryIx) (t : AccessTag) (s : State) : State :=
  match s.entry i with
  | .pending c => dropWaits i (s.setEntry i (.issued c t))
  | _ => s

/-- The READY slot becomes ISSUED under a tag, its orphaned mark clear, and leaves every blocked-by set (R53). -/
def issueSlot (k : SlotIx) (t : AccessTag) (s : State) : State :=
  match s.slot k with
  | .ready r => unblock [k] (s.setSlot k (.issued r t false))
  | _ => s

/-- The owner of an issued access becomes ISSUED (R109). -/
def issueOwner (o : Owner) (t : AccessTag) (s : State) : State :=
  match o with
  | .write i => issueEntry i t s
  | .read k => issueSlot k t s

/-- The issue of a grant under a tag: record, owner and arbiter change in one event (R109). -/
def issueGrant (g : Grant) (t : AccessTag) (s : State) : State :=
  { (issueOwner g.owner t s).setAccess t (.outstanding g.owner 0) with arbiter := g.arbiter }

/-- The issue event: the arbiter's choice under the lowest FREE tag (R102); without a FREE record or a candidate,
nothing is issued. -/
def issueNow (s : State) : State :=
  match s.accesses.lowest AccessRec.isFree, chosenGrant s with
  | some t, some g => issueGrant g t s
  | _, _ => s

/-- ISSUE (R102). -/
def execIssue (s : State) : Outcome := whileRunning s issueNow

/-! ## The end of a write access (R17 to R20) -/

/-- The fault record of a failed entry, with the time count of this event (R157). -/
def faultRecordOf (s : State) (c : Committed) (kind : FaultKind) : FaultRecord :=
  { kind := kind, line := c.line, mask := c.mask, port := c.port, cls := c.cls, fromBundle := c.fromBundle,
    time := s.timeCount }

/-- The report of a failed POST or ORDERED entry: fault list and port fault flag (R18). -/
def reportPosted (c : Committed) (kind : FaultKind) (s : State) : State :=
  setPortFault c.port (recordFault (faultRecordOf s c kind) s)

/-- The answer of a THROUGH entry to its reply tag, if one is present (R17, R19). -/
def answerThrough (c : Committed) (a : Answer) (s : State) : State :=
  match c.replyTag with
  | some tag => place c.port tag a s
  | none => s

/-- What the end of an entry's access reports, by its class and how the access ended (R17, R18, R19). -/
def reportEnd (c : Committed) (e : AccessEnd) (s : State) : State :=
  match c.cls, e with
  | .through, .ok _ => answerThrough c .done s
  | .through, .error => answerThrough c (.fault .memError) s
  | .through, .timeout => answerThrough c (.fault .memTimeout) s
  | _, .ok _ => s
  | _, .error => reportPosted c .writeError s
  | _, .timeout => reportPosted c .writeTimeout s

/-- The access ended without an OK response. -/
def AccessEnd.failed : AccessEnd → Bool
  | .ok _ => false
  | .error => true
  | .timeout => true

/-- The entry leaves its chain, its order queue and the ORDERED list, and becomes FREE (R17, R39). -/
def dropEntry (i : EntryIx) (s : State) : State :=
  { s.setEntry i .free with commitOrder := without i s.commitOrder }

/-- The end of an ISSUED entry's access: its own report first, then the fences it empties in acceptance order (R93),
then pressure and QUIESCED (R17 to R19, R39, R149). -/
def endWrite (i : EntryIx) (e : AccessEnd) (s : State) : State :=
  match s.entry i with
  | .issued c _ => afterRelease (answerEmptied (leaveFences i e.failed (dropEntry i (reportEnd c e s))))
  | _ => s

/-- The owner handled as its access ended (R110, R112). -/
def endOwner (o : Owner) (e : AccessEnd) (s : State) : State :=
  match o with
  | .write i => endWrite i e s
  | .read k => endRead k e s

/-! ## Responses and timeouts (R110 to R112) -/

/-- The record's state after the end of its access: FREE after a response, QUARANTINED after a timeout (R110, R112). -/
def AccessEnd.recordAfter : AccessEnd → AccessRec
  | .ok _ => .free
  | .error => .free
  | .timeout => .quarantined

/-- The end of the access of an OUTSTANDING record, record and owner in one event (R110, R112). -/
def endAccess (t : AccessTag) (e : AccessEnd) (s : State) : State :=
  match s.access t with
  | .outstanding o _ => endOwner o e (s.setAccess t e.recordAfter)
  | _ => s

/-- How a response ends its access (R99). -/
def responseEnd (status : MemStatus) (data : BitVec 256) : AccessEnd :=
  match status with
  | .ok => .ok data
  | .error => .error

/-- A response at the memory port: matched to an OUTSTANDING record (R110), or discarded as stray, which frees a
QUARANTINED record (R111). -/
def responseArrives (t : AccessTag) (status : MemStatus) (data : BitVec 256) (s : State) : State :=
  match s.access t with
  | .outstanding _ _ => endAccess t (responseEnd status data) s
  | .quarantined => { s.setAccess t .free with stray := true }
  | .free => { s with stray := true }

/-- MEMORY_RESPONSE (R110, R111). While RST_N is asserted the response is taken and discarded, and the stray flag
stays clear (R178). -/
def execMemoryResponse (t : AccessTag) (status : MemStatus) (data : BitVec 256) (s : State) : Outcome :=
  whileRunning s (responseArrives t status data)

/-- The expiry of an access timer at a tick, after the timers advanced: the owner fails and the record is QUARANTINED
(R112); nothing below MEM_TIMEOUT. -/
def expireAccess (t : AccessTag) (s : State) : State :=
  if (s.access t).timedOut s.config.memTimeout then endAccess t .timeout s else s

/-- Every QUARANTINED record FREE (R116). -/
def releaseAllTags (s : State) : State :=
  { s with accesses := s.accesses.mapIx fun _ a => if a.isQuarantined then .free else a }

end Sys2Proof.Machine
end

