-- ==== Sys2Proof/Machine/Resets.lean ====
section
/-! DEFINITION. Port reset and device reset (R135 to R138, R21, R40, R59, R83, R96, R117, R156, R167, R177, R178). -/

namespace Sys2Proof.Machine

/-! ## Port reset (R135) -/

/-- The port's own state after its reset (R135). -/
def PortState.afterReset (p : PortState) : PortState :=
  { p with head := none, queue := [], outstanding := [], violation := false, portFault := false }

/-- A THROUGH entry of the port loses its reply tag (R21). -/
def Entry.dropReply (n : Port) (e : Entry) : Entry :=
  e.mapCommitted fun c => if c.port = n ∧ c.cls = .through then { c with replyTag := none } else c

/-- A slot at the reset of a port: WAITING and READY slots become FREE, ISSUED slots are orphaned (R59). -/
def Slot.portReset (n : Port) : Slot → Slot
  | .free => .free
  | .waiting r => if r.port = n then .free else .waiting r
  | .ready r => if r.port = n then .free else .ready r
  | .issued r t o => if r.port = n then .issued r t true else .issued r t o

/-- The slots of the port that are WAITING or READY (R59). -/
def unissuedSlots (s : State) (n : Port) : List SlotIx :=
  s.slots.positions fun x => x.unissued?.any fun r => r.port == n

/-- The members of a context, where it is OPEN and the port's. -/
def Ctx.membersOf (n : Port) : Ctx → List EntryIx
  | .opened o => if o.port = n then o.members else []
  | _ => []

/-- The MEMBER entries that the contexts of a port hold (R83). -/
def membersOfPort (s : State) (n : Port) : List EntryIx := s.contexts.items.flatMap (Ctx.membersOf n)

/-- A fence record at the reset of a port: the port's own become FREE, not answered (R96). -/
def FenceRec.portReset (n : Port) : FenceRec → FenceRec
  | .free => .free
  | .waiting w => if w.port = n then .free else .waiting w

/-- The port reset of port n: the port, buffer, tracker, bundle table and fence table in one event (R135). The memory
port, the order collections, the modes and the link keep theirs (R117, R40, R156, R168). -/
def portResetNow (n : Port) (s : State) : State :=
  let t := unblock (unissuedSlots s n) (releaseEntries (membersOfPort s n) s)
  afterRelease
    { t with
      ports := t.ports.set n (t.port n).afterReset
      entries := t.entries.mapIx fun _ e => e.dropReply n
      slots := t.slots.mapIx fun _ x => x.portReset n
      contexts := t.contexts.mapIx fun _ x => if x.ownedBy n then .free else x
      fences := t.fences.mapIx fun _ f => f.portReset n }

/-- The level of PRST_N[n] (R135, R136, R139). -/
def setHeld (n : Port) (level : Bool) (s : State) : State := s.setPort n { s.port n with held := level }

/-- PRST_N_ASSERT (R135): the port reset, and the port is held. While RST_N is asserted the input has no effect
(R178); its level is kept (log 12). -/
def execPrstAssert (n : Port) (s : State) : Outcome :=
  .next (if s.inReset then setHeld n true s else setHeld n true (portResetNow n s))

/-- PRST_N_RELEASE (R136): the port takes requests again. -/
def execPrstRelease (n : Port) (s : State) : Outcome := .next (setHeld n false s)

/-! ## Device reset (R138, R178) -/

/-- Every block at its device-reset state, RST_N asserted. The levels of the PRST_N pins, the strap last kept, the
command queue and the model's own counter are no block's state and stay (log 12). -/
def deviceResetNow (s : State) : State :=
  { State.reset with
    ports := s.ports.mapIx fun _ p => { PortState.reset with held := p.held }
    link := Link.reset s.link.strap
    inReset := true
    freeCount := s.freeCount
    pending := s.pending }

/-- DEVICE_RESET (R178): RST_N is asserted. -/
def execDeviceReset (s : State) : Outcome := .next (deviceResetNow s)

/-- DEVICE_RESET_RELEASE (R168): RST_N is released, the strap is kept, and the divider starts afresh (R156). When RST_N
is not asserted the event does not take place (log 1). -/
def execDeviceResetRelease (strap : BitVec 2) (s : State) : Outcome :=
  .next
    (if s.inReset then { s with inReset := false, divider := 0, link := { s.link with strap := strap } } else s)

end Sys2Proof.Machine
end

