-- ==== Sys2Proof/Machine/Objects.lean ====
section
/-! DEFINITION. The management objects: the map, reads, writes with their checks, and the link commands (chapter 10,
sections 10.2 to 10.4; chapter 8, sections 8.1, 8.3, 8.5; R15, R29, R80, R105, R108, R113, R165). -/

namespace Sys2Proof.Machine

/-! ## The object map (R176) -/

/-- A configuration item, in index order from 0x0100 (R176). -/
inductive ConfigItem where
  | bundleQuota
  | reserve
  | highMark
  | lowMark
  | ageLimit
  | idleLimit
  | memTimeout
  | readRunLimit
  | portGroup
  | tbdiv
  | defaultClass
  | alertMask
deriving DecidableEq, Repr

/-- The four fault head objects (R160, R176). -/
inductive FaultHead where
  | a
  | b
  | c
  | d
deriving DecidableEq, Repr

/-- A management object, or an unassigned index (R172, R176). -/
inductive MgmtObject where
  | identification
  | revision
  | summary
  | command
  | config (item : ConfigItem)
  | window (w : Fin 8) (part : WindowPart)
  | faultCount
  | faultHead (part : FaultHead)
  | timeCount
  | portStatus (n : Port)
  | unassigned
deriving DecidableEq, Repr

/-- The configuration item at offset k from 0x0100. -/
def configItemAt (k : Nat) : Option ConfigItem :=
  [ConfigItem.bundleQuota, .reserve, .highMark, .lowMark, .ageLimit, .idleLimit, .memTimeout, .readRunLimit,
    .portGroup, .tbdiv, .defaultClass, .alertMask][k]?

/-- The window object at offset k from 0x0200; the fourth index of a group is unassigned (R172). -/
def windowObjectAt (k : Nat) : Option (Fin 8 × WindowPart) :=
  let w : Fin 8 := Fin.ofNat 8 (k / 4)
  if 32 ≤ k then none
  else if k % 4 = 0 then some (w, .baseLow)
  else if k % 4 = 1 then some (w, .baseHighSize)
  else if k % 4 = 2 then some (w, .classEnable)
  else none

/-- The object that stands at an index (R176). -/
def objectAt (index : BitVec 16) : MgmtObject :=
  let n := index.toNat
  if n = 0x0000 then .identification
  else if n = 0x0001 then .revision
  else if n = 0x0010 then .summary
  else if n = 0x0020 then .command
  else if n = 0x0300 then .faultCount
  else if n = 0x0301 then .faultHead .a
  else if n = 0x0302 then .faultHead .b
  else if n = 0x0303 then .faultHead .c
  else if n = 0x0304 then .faultHead .d
  else if n = 0x0310 then .timeCount
  else if 0x0400 ≤ n ∧ n < 0x0404 then .portStatus (Fin.ofNat 4 (n - 0x0400))
  else if 0x0100 ≤ n ∧ n < 0x0200 then
    match configItemAt (n - 0x0100) with
    | some i => .config i
    | none => .unassigned
  else if 0x0200 ≤ n ∧ n < 0x0300 then
    match windowObjectAt (n - 0x0200) with
    | some (w, part) => .window w part
    | none => .unassigned
  else .unassigned

/-- The index of the command object (R176). -/
def commandIndex : BitVec 16 := 0x0020

/-- The index of a configuration item (R176). -/
def configIndex : ConfigItem → BitVec 16
  | .bundleQuota => 0x0100
  | .reserve => 0x0101
  | .highMark => 0x0102
  | .lowMark => 0x0103
  | .ageLimit => 0x0104
  | .idleLimit => 0x0105
  | .memTimeout => 0x0106
  | .readRunLimit => 0x0107
  | .portGroup => 0x0108
  | .tbdiv => 0x0109
  | .defaultClass => 0x010A
  | .alertMask => 0x010B

/-- The position of a window's object within its group (R176). -/
def windowPartOffset : WindowPart → Nat
  | .baseLow => 0
  | .baseHighSize => 1
  | .classEnable => 2

/-- The index of a window object (R176). -/
def windowIndex (w : Fin 8) (part : WindowPart) : BitVec 16 :=
  BitVec.ofNat 16 (0x0200 + 4 * w.val + windowPartOffset part)

/-! ## Reads (R170, R176) -/

/-- A flag as a number. -/
def bit (b : Bool) : Nat := if b then 1 else 0

/-- The code of the mode (R176). -/
def modeCode : Mode → Nat
  | .pass => 0
  | .run => 1
  | .quiescing => 2
  | .quiesced => 3

/-- The code of a last result (R176). -/
def resultCode : LastResult → Nat
  | .none => 0
  | .accepted => 1
  | .refusedState => 2
  | .refusedValue => 3

/-- The code of a fault record's kind (R176). -/
def kindCode : FaultKind → Nat
  | .writeError => 1
  | .writeTimeout => 2

/-- The mode and status summary object (R176). -/
def summaryWord (s : State) : Word :=
  BitVec.ofNat 32
    (modeCode s.mode + 2 ^ 4 * bit s.pressure + 2 ^ 5 * bit s.overflow + 2 ^ 6 * bit s.stray +
      2 ^ 7 * bit s.modeEvent + 2 ^ 8 * occupancy s + 2 ^ 16 * tagsQuarantined s + 2 ^ 20 * contextsInUse s +
      2 ^ 24 * fencesInUse s)

/-- The per-port status object (R139, R176). -/
def portStatusWord (s : State) (n : Port) : Word :=
  BitVec.ofNat 32
    ((s.port n).outstanding.length + 2 ^ 8 * bit (headWaiting s n) + 2 ^ 9 * bit (s.port n).violation +
      2 ^ 10 * bit (s.port n).portFault + 2 ^ 11 * bit (s.port n).held)

/-- The command object as read: the last result and the index that produced it (R174, R176). -/
def lastResultWord (s : State) : Word :=
  BitVec.ofNat 32 (resultCode s.link.lastResult + 2 ^ 16 * s.link.lastIndex.toNat)

/-- PORT_GROUP as a number: bit n set places port n in the low group (R176). -/
def portGroupBits (low : Table Bool 4) : Nat :=
  bit (low.get 0) + 2 * bit (low.get 1) + 4 * bit (low.get 2) + 8 * bit (low.get 3)

/-- The alert mask as a number (R176). -/
def alertMaskBits (m : AlertMask) : Nat := bit m.fault + 2 * bit m.violation + 4 * bit m.stray + 8 * bit m.mode

/-- A configuration object as read (R176). -/
def configWord (s : State) : ConfigItem → Word
  | .bundleQuota => BitVec.ofNat 32 s.config.bundleQuota
  | .reserve => BitVec.ofNat 32 s.config.reserve
  | .highMark => BitVec.ofNat 32 s.config.highMark
  | .lowMark => BitVec.ofNat 32 s.config.lowMark
  | .ageLimit => BitVec.ofNat 32 s.config.ageLimit
  | .idleLimit => BitVec.ofNat 32 s.config.idleLimit
  | .memTimeout => BitVec.ofNat 32 s.config.memTimeout
  | .readRunLimit => BitVec.ofNat 32 s.config.readRunLimit
  | .portGroup => BitVec.ofNat 32 (portGroupBits s.config.portLow)
  | .tbdiv => BitVec.ofNat 32 s.config.tbdiv
  | .defaultClass => BitVec.ofNat 32 (classCode s.config.defaultClass)
  | .alertMask => BitVec.ofNat 32 (alertMaskBits s.config.alertMask)

/-- A window object as read (R140, R176). -/
def windowWord (w : Window) : WindowPart → Word
  | .baseLow => w.base.extractLsb' 0 32
  | .baseHighSize => BitVec.ofNat 32 ((w.base.extractLsb' 32 8).toNat + 2 ^ 8 * w.exponent)
  | .classEnable => BitVec.ofNat 32 (classCode w.cls + 2 ^ 8 * bit w.enabled)

/-- A fault head object of a record (R176). -/
def faultHeadWord (r : FaultRecord) : FaultHead → Word
  | .a =>
    BitVec.ofNat 32
      (kindCode r.kind + 2 ^ 4 * r.port.val + 2 ^ 8 * bit (r.cls == .ordered) + 2 ^ 9 * bit r.fromBundle +
        2 ^ 16 * (r.line.extractLsb' 32 8).toNat)
  | .b => r.line.extractLsb' 0 32
  | .c => r.mask
  | .d => r.time

/-- The value of an object as it stands (R170); an unassigned index and the head of an empty list read zero
(R172, R160). -/
def readObject (s : State) : MgmtObject → Word
  | .identification => Config.identification
  | .revision => Config.revision
  | .summary => summaryWord s
  | .command => lastResultWord s
  | .config i => configWord s i
  | .window w part => windowWord (s.windows.get w) part
  | .faultCount => BitVec.ofNat 32 s.faultList.length
  | .faultHead part =>
    match s.faultList.head? with
    | some r => faultHeadWord r part
    | none => 0
  | .timeCount => s.timeCount
  | .portStatus n => portStatusWord s n
  | .unassigned => 0

/-! ## Writes (R172 to R174)

Each owner's write answers the state and the last result. -/

/-- A state with the last result an object write gives it. -/
abbrev Written := State × LastResult

/-- The last result and its index set (R174). -/
def recordResult (index : BitVec 16) (w : Written) : State :=
  { w.1 with link := { w.1.link with lastResult := w.2, lastIndex := index } }

/-- Nothing stored, with a result. -/
def notStored (s : State) (r : LastResult) : Written := (s, r)

/-- A value stored where its checks pass, REFUSED-VALUE otherwise (R173). -/
def storeIf (ok : Bool) (s t : State) : Written := if ok then (t, .accepted) else (s, .refusedValue)

/-- The value lies in a range. -/
def inRange (lo hi : Nat) (v : Word) : Bool := lo ≤ v.toNat && v.toNat ≤ hi

/-- The configuration items replaced. -/
def State.setConfig (s : State) (c : ConfigItems) : State := { s with config := c }

/-- HIGH_MARK (R15): in range and above LOW_MARK; pressure is evaluated at the store. -/
def writeHighMark (v : Word) (s : State) : Written :=
  storeIf (fitsIn v 7 && inRange 8 64 v && s.config.lowMark < v.toNat) s
    (evalPressure (s.setConfig { s.config with highMark := v.toNat }))

/-- LOW_MARK (R15): in range and below HIGH_MARK; pressure is evaluated at the store. -/
def writeLowMark (v : Word) (s : State) : Written :=
  storeIf (fitsIn v 6 && inRange 0 63 v && v.toNat < s.config.highMark) s
    (evalPressure (s.setConfig { s.config with lowMark := v.toNat }))

/-- AGE_LIMIT (R29). -/
def writeAgeLimit (v : Word) (s : State) : Written :=
  storeIf (fitsIn v 10 && inRange 0 1023 v) s (s.setConfig { s.config with ageLimit := v.toNat })

/-- IDLE_LIMIT (R80): the timers stay. -/
def writeIdleLimit (v : Word) (s : State) : Written :=
  storeIf (fitsIn v 16 && inRange 1 65535 v) s (s.setConfig { s.config with idleLimit := v.toNat })

/-- MEM_TIMEOUT (R113): the timers stay. -/
def writeMemTimeout (v : Word) (s : State) : Written :=
  storeIf (fitsIn v 12 && inRange 1 4095 v) s (s.setConfig { s.config with memTimeout := v.toNat })

/-- READ_RUN_LIMIT (R105). -/
def writeReadRunLimit (v : Word) (s : State) : Written :=
  storeIf (fitsIn v 5 && inRange 1 16 v) s (s.setConfig { s.config with readRunLimit := v.toNat })

/-- PORT_GROUP (R108): every value of its four bits. -/
def writePortGroup (v : Word) (s : State) : Written :=
  storeIf (fitsIn v 4) s
    (s.setConfig { s.config with portLow := Table.ofFn fun n => v.getLsbD n.val })

/-- TBDIV (R153): in PASS only; the divider starts its count afresh. -/
def writeTbdiv (v : Word) (s : State) : Written :=
  if s.mode = .pass then
    storeIf (fitsIn v 11 && inRange 1 1024 v) s
      { s.setConfig { s.config with tbdiv := v.toNat } with divider := 0 }
  else notStored s .refusedState

/-- ALERT_MASK (R165): every value of its four bits. -/
def writeAlertMask (v : Word) (s : State) : Written :=
  storeIf (fitsIn v 4) s
    (s.setConfig
      { s.config with
        alertMask :=
          { fault := v.getLsbD 0, violation := v.getLsbD 1, stray := v.getLsbD 2, mode := v.getLsbD 3 } })

/-- An interlocked object: REFUSED-STATE outside the states of R152, whatever the value. -/
def interlocked (s : State) (w : Written) : Written := if interlockPasses s then w else notStored s .refusedState

/-- DEFAULT_CLASS (R143, R152). -/
def writeDefaultClass (v : Word) (s : State) : Written :=
  interlocked s
    (match classOfCode v.toNat with
    | some c => (s.setConfig { s.config with defaultClass := c }, .accepted)
    | none => notStored s .refusedValue)

/-- RESERVE (R152). -/
def writeReserve (v : Word) (s : State) : Written :=
  interlocked s
    (storeIf (fitsIn v 6 && inRange 4 32 v) s (s.setConfig { s.config with reserve := v.toNat }))

/-- BUNDLE_QUOTA (R152). -/
def writeBundleQuota (v : Word) (s : State) : Written :=
  interlocked s
    (storeIf (fitsIn v 6 && inRange 1 32 v) s (s.setConfig { s.config with bundleQuota := v.toNat }))

/-- A configuration object by its item (R173). -/
def writeConfig (i : ConfigItem) (v : Word) (s : State) : Written :=
  match i with
  | .bundleQuota => writeBundleQuota v s
  | .reserve => writeReserve v s
  | .highMark => writeHighMark v s
  | .lowMark => writeLowMark v s
  | .ageLimit => writeAgeLimit v s
  | .idleLimit => writeIdleLimit v s
  | .memTimeout => writeMemTimeout v s
  | .readRunLimit => writeReadRunLimit v s
  | .portGroup => writePortGroup v s
  | .tbdiv => writeTbdiv v s
  | .defaultClass => writeDefaultClass v s
  | .alertMask => writeAlertMask v s

/-- A window replaced. -/
def State.setWindow (s : State) (w : Fin 8) (x : Window) : State := { s with windows := s.windows.set w x }

/-- A window with a new base and size, stored where the window is disabled or the base stays aligned (R141). -/
def storeRange (s : State) (w : Fin 8) (base : Addr) (exponent : Nat) (formOk : Bool) : Written :=
  storeIf (formOk && (!(s.windows.get w).enabled || aligned base exponent)) s
    (s.setWindow w { s.windows.get w with base := base, exponent := exponent })

/-- The low base object (R141). -/
def writeBaseLow (w : Fin 8) (v : Word) (s : State) : Written :=
  storeRange s w ((s.windows.get w).base.extractLsb' 32 8 ++ v) (s.windows.get w).exponent true

/-- The high base and size object, both checked at once (R141, R173). -/
def writeBaseHighSize (w : Fin 8) (v : Word) (s : State) : Written :=
  storeRange s w (v.extractLsb' 0 8 ++ (s.windows.get w).base.extractLsb' 0 32) (v.extractLsb' 8 6).toNat
    (fitsIn v 14 && 12 ≤ (v.extractLsb' 8 6).toNat && (v.extractLsb' 8 6).toNat ≤ 40)

/-- The class and enable object (R141): bits 1:0 and 8; enabling asks for an aligned base. -/
def writeClassEnable (w : Fin 8) (v : Word) (s : State) : Written :=
  match classOfCode (v.extractLsb' 0 2).toNat with
  | none => notStored s .refusedValue
  | some c =>
    storeIf
      (v &&& 0xFFFFFEFC == 0 &&
        (!v.getLsbD 8 || aligned (s.windows.get w).base (s.windows.get w).exponent))
      s (s.setWindow w { s.windows.get w with enabled := v.getLsbD 8, cls := c })

/-- A window object under the interlock (R141, R152). -/
def writeWindow (w : Fin 8) (part : WindowPart) (v : Word) (s : State) : Written :=
  interlocked s
    (match part with
    | .baseLow => writeBaseLow w v s
    | .baseHighSize => writeBaseHighSize w v s
    | .classEnable => writeClassEnable w v s)

/-! ## Commands (R175) -/

/-- A link command with its argument. -/
inductive LinkCommand where
  | enable
  | quiesce
  | resume
  | disable
  | abortBundles
  | portReset (n : Port)
  | faultPop
  | clearFlags
  | releaseTags
deriving DecidableEq, Repr

/-- The command that a value written to the command object carries (R175, R176); `none` for an unassigned code, an
argument where none is allowed, a PORT-RESET argument above 3, or a bit outside the fields. -/
def commandOf (v : Word) : Option LinkCommand :=
  let code := v.toNat % 256
  let arg := v.toNat / 256
  if code = 0x11 then (if arg < 4 then some (.portReset (Fin.ofNat 4 arg)) else none)
  else if arg ≠ 0 then none
  else if code = 0x01 then some .enable
  else if code = 0x02 then some .quiesce
  else if code = 0x03 then some .resume
  else if code = 0x04 then some .disable
  else if code = 0x10 then some .abortBundles
  else if code = 0x12 then some .faultPop
  else if code = 0x13 then some .clearFlags
  else if code = 0x14 then some .releaseTags
  else none

/-- The mode replaced (R146). -/
def State.setMode (s : State) (m : Mode) : State := { s with mode := m }

/-- ENABLE (R147). -/
def takeEnable (s : State) : Written :=
  if s.mode = .pass then (s.setMode .run, .accepted) else notStored s .refusedState

/-- QUIESCE (R148), with the move to QUIESCED in the same event where occupancy is 0 (R149). -/
def takeQuiesce (s : State) : Written :=
  if s.mode = .run then (reachQuiesced (s.setMode .quiescing), .accepted) else notStored s .refusedState

/-- RESUME (R150). -/
def takeResume (s : State) : Written :=
  if s.mode = .quiescing ∨ s.mode = .quiesced then (s.setMode .run, .accepted) else notStored s .refusedState

/-- DISABLE (R151). -/
def takeDisable (s : State) : Written :=
  if s.mode = .quiesced ∧ anyOpen s = false then (s.setMode .pass, .accepted) else notStored s .refusedState

/-- FAULT-POP (R160). -/
def takeFaultPop (s : State) : Written :=
  match s.faultList with
  | [] => notStored s .refusedState
  | _ :: rest => ({ s with faultList := rest }, .accepted)

/-- A valid command taken or refused (R175). -/
def takeCommand (c : LinkCommand) (s : State) : Written :=
  match c with
  | .enable => takeEnable s
  | .quiesce => takeQuiesce s
  | .resume => takeResume s
  | .disable => takeDisable s
  | .abortBundles => (abortAllBundles s, .accepted)
  | .portReset n => (portResetNow n s, .accepted)
  | .faultPop => takeFaultPop s
  | .clearFlags => (clearAllFlags s, .accepted)
  | .releaseTags => (releaseAllTags s, .accepted)

/-- A command with its last result, under the index of the command object (R174, R175). -/
def commandEvent (c : LinkCommand) (s : State) : State := recordResult commandIndex (takeCommand c s)

/-! ## The object write (R170, R172) -/

/-- A value offered to an object (R172). -/
def offerValue (o : MgmtObject) (v : Word) (s : State) : Written :=
  match o with
  | .command =>
    match commandOf v with
    | some c => takeCommand c s
    | none => notStored s .refusedValue
  | .config i => writeConfig i v s
  | .window w part => writeWindow w part v s
  | _ => notStored s .refusedValue

/-- The object write: the value offered to the object at an index, and the last result set (R170, R174). -/
def objectWriteEvent (index : BitVec 16) (v : Word) (s : State) : State :=
  recordResult index (offerValue (objectAt index) v s)

/-! ## The commands of the table -/

/-- ENABLE (R147). -/
def execEnable (s : State) : Outcome := whileRunning s (commandEvent .enable)

/-- QUIESCE (R148, R149). -/
def execQuiesce (s : State) : Outcome := whileRunning s (commandEvent .quiesce)

/-- RESUME (R150). -/
def execResume (s : State) : Outcome := whileRunning s (commandEvent .resume)

/-- DISABLE (R151). -/
def execDisable (s : State) : Outcome := whileRunning s (commandEvent .disable)

/-- ABORT_BUNDLES (R81). -/
def execAbortBundles (s : State) : Outcome := whileRunning s (commandEvent .abortBundles)

/-- PORT_RESET (R135, R136). -/
def execPortReset (n : Port) (s : State) : Outcome := whileRunning s (commandEvent (.portReset n))

/-- FAULT_POP (R160). -/
def execFaultPop (s : State) : Outcome := whileRunning s (commandEvent .faultPop)

/-- CLEAR_FLAGS (R164). -/
def execClearFlags (s : State) : Outcome := whileRunning s (commandEvent .clearFlags)

/-- RELEASE_TAGS (R116). -/
def execReleaseTags (s : State) : Outcome := whileRunning s (commandEvent .releaseTags)

/-- HIGH_MARK (R15). -/
def execHighMark (v : Word) (s : State) : Outcome :=
  whileRunning s fun s => recordResult (configIndex .highMark) (writeHighMark v s)

/-- LOW_MARK (R15). -/
def execLowMark (v : Word) (s : State) : Outcome :=
  whileRunning s fun s => recordResult (configIndex .lowMark) (writeLowMark v s)

/-- AGE_LIMIT (R29). -/
def execAgeLimit (v : Word) (s : State) : Outcome :=
  whileRunning s fun s => recordResult (configIndex .ageLimit) (writeAgeLimit v s)

/-- IDLE_LIMIT (R80). -/
def execIdleLimit (v : Word) (s : State) : Outcome :=
  whileRunning s fun s => recordResult (configIndex .idleLimit) (writeIdleLimit v s)

/-- MEM_TIMEOUT (R113). -/
def execMemTimeout (v : Word) (s : State) : Outcome :=
  whileRunning s fun s => recordResult (configIndex .memTimeout) (writeMemTimeout v s)

/-- TBDIV (R153). -/
def execTbdiv (v : Word) (s : State) : Outcome :=
  whileRunning s fun s => recordResult (configIndex .tbdiv) (writeTbdiv v s)

/-- ALERT_MASK (R165). -/
def execAlertMask (v : Word) (s : State) : Outcome :=
  whileRunning s fun s => recordResult (configIndex .alertMask) (writeAlertMask v s)

/-- WINDOW_OBJECT (R141). -/
def execWindowObject (w : Fin 8) (part : WindowPart) (v : Word) (s : State) : Outcome :=
  whileRunning s fun s => recordResult (windowIndex w part) (writeWindow w part v s)

/-- OBJECT_WRITE (R173, R172): the object write at any index. -/
def execObjectWrite (index : BitVec 16) (v : Word) (s : State) : Outcome :=
  whileRunning s (objectWriteEvent index v)

end Sys2Proof.Machine
end

