-- ==== Sys2Proof/Machine/Timebase.lean ====
section
/-! DEFINITION. The timebase: the tick and every timer that advances at it, the expiries, and the divider
(chapter 8, section 8.6; R28, R78, R79, R112, R171). -/

namespace Sys2Proof.Machine

/-! ## What one tick does to each timer (R155) -/

/-- An entry's age at a tick: a PENDING entry's rises to at most 1023 (R28). -/
def Entry.tick : Entry → Entry
  | .pending c => .pending { c with age := min (c.age + 1) Config.ageCeiling }
  | e => e

/-- An idle timer at a tick (R78). -/
def Ctx.tick : Ctx → Ctx
  | .opened o => .opened { o with idle := o.idle + 1 }
  | x => x

/-- An access timer at a tick (R112). -/
def AccessRec.tick : AccessRec → AccessRec
  | .outstanding o n => .outstanding o (n + 1)
  | a => a

/-- Every timer advances, and the divider starts its next tick (R153, R154, R155, R171). -/
def advanceTimers (s : State) : State :=
  { s with
    entries := s.entries.mapIx fun _ e => e.tick
    contexts := s.contexts.mapIx fun _ x => x.tick
    accesses := s.accesses.mapIx fun _ a => a.tick
    link := { s.link with busTimer := s.link.busTimer.map fun n => n + 1 }
    timeCount := s.timeCount + 1
    divider := 0 }

/-! ## The expiries of a tick

R155: the owner takes the expiry at the tick at which its timer reaches the limit. Each function below speaks of the
state of that tick, whose timers have advanced. -/

/-- A link reset (R171): IDLE, held bytes discarded; the bus timeout timer runs only within a frame (log 11). -/
def linkReset (s : State) : State := { s with link := { s.link with frame := .idle, busTimer := none } }

/-- The bus timeout timer stands at 25,000 ticks or above (R171). -/
def busTimedOut (s : State) : Bool := s.link.busTimer.any fun n => Config.busTimeoutTicks ≤ n

/-- A bus timeout is a link reset (R171). -/
def expireBus (s : State) : State := if busTimedOut s then linkReset s else s

/-- The expiries of the bus timeout and of the idle timers; they act on separate state (R155). -/
def expireBusAndIdles (s : State) : State := (List.finRange 6).foldl (fun t c => expireIdle c t) (expireBus s)

/-- The access records whose timers stand at MEM_TIMEOUT or above. -/
def expiringTags (s : State) : List AccessTag := s.accesses.positions (AccessRec.timedOut s.config.memTimeout)

/-- The access timeouts of a tick, one after another; of several, the free value picks the next (log 3, R159). -/
def expireAccesses : Nat → State → State
  | 0, s => s
  | n + 1, s =>
    match expiringTags s with
    | [] => s
    | [t] => expireAccess t s
    | t :: u :: rest =>
      let all := t :: u :: rest
      expireAccesses n
        { expireAccess (all.getD (Config.expiryPick s.freeCount % all.length) t) s with
          freeCount := s.freeCount + 1 }

/-! ## The tick -/

/-- A tick is one event: every timer advances, and every expiry that this brings is taken (R155). -/
def tickNow (s : State) : State := expireAccesses 8 (expireBusAndIdles (advanceTimers s))

/-- The same event with the timeout of one record taken before those of the other records (R159). -/
def tickTimingOut (t : AccessTag) (s : State) : State :=
  expireAccesses 8 (expireAccess t (expireBusAndIdles (advanceTimers s)))

/-- TICK (R155). While RST_N is asserted no tick is produced (R153). -/
def execTick (s : State) : Outcome := whileRunning s tickNow

/-- AGE_REACHED (R30): the entry becomes due by age. Due-ness "is held by no flag of its own" (R33): it is computed
by `isDue` from the age and AGE_LIMIT, so the event changes no state (log 19). -/
def execAgeReached (_entry : EntryIx) (s : State) : Outcome := whileRunning s fun s => s

/-- IDLE_EXPIRY (R79): the tick at which the idle timer of the context reaches IDLE_LIMIT (log 3). -/
def execIdleExpiry (c : CtxIx) (s : State) : Outcome :=
  whileRunning s fun s => if ((advanceTimers s).ctx c).idledOut s.config.idleLimit then tickNow s else s

/-- ACCESS_TIMEOUT (R112): the tick at which the timer of the record reaches MEM_TIMEOUT (log 3). -/
def execAccessTimeout (t : AccessTag) (s : State) : Outcome :=
  whileRunning s fun s =>
    if ((advanceTimers s).access t).timedOut s.config.memTimeout then tickTimingOut t s else s

/-- BUS_TIMEOUT (R171): the tick at which the bus timeout timer reaches 25,000 ticks (log 3). -/
def execBusTimeout (s : State) : Outcome :=
  whileRunning s fun s => if busTimedOut (advanceTimers s) then tickNow s else s

/-- One period of CLK at the divider: every TBDIV periods make one tick (R153, log 2). -/
def clkPeriod (s : State) : State :=
  if s.divider + 1 < s.config.tbdiv then { s with divider := s.divider + 1 } else tickNow s

end Sys2Proof.Machine
end

