-- ==== Sys2Proof/Machine/Link.lean ====
section
/-! DEFINITION. The maintenance link's frame machine, byte by byte (chapter 10, section 10.1). -/

namespace Sys2Proof.Machine

/-- The frame state replaced. -/
def State.setFrame (s : State) (f : Frame) : State := { s with link := { s.link with frame := f } }

/-- The current object index advanced by one, from 65535 to 0 (R170). -/
def advanceIndex (s : State) : State := { s with link := { s.link with index := s.link.index + 1 } }

/-- The part's own 7-bit bus address (R168). -/
def busAddress (s : State) : Nat := Config.busAddressBase + s.link.strap.toNat

/-- An address byte carries the part's own address in its first seven bits (R168, R169). -/
def ownAddress (s : State) (b : Byte) : Bool := b.toNat / 2 == busAddress s

/-- A START or repeated START with its address byte: a link reset, then the frame it begins (R169, R171). -/
def startFrame (b : Byte) (s : State) : State :=
  if ownAddress s b then
    (linkReset s).setFrame (if b.getLsbD 0 then .readData .atStart else .indexHigh)
  else linkReset s

/-- LINK_START (R169). -/
def execLinkStart (b : Byte) (s : State) : Outcome := whileRunning s (startFrame b)

/-- An index byte: the high byte is kept, the low byte sets the current index (R169). -/
def indexByte (b : Byte) (s : State) : State :=
  match s.link.frame with
  | .indexHigh => s.setFrame (.indexLow b)
  | .indexLow h => { s with link := { s.link with frame := .writeData [], index := indexOfBytes h b } }
  | _ => s

/-- LINK_INDEX_BYTE (R169). -/
def execLinkIndexByte (b : Byte) (s : State) : Outcome := whileRunning s (indexByte b)

/-- A data byte: held, and at the fourth the object write is made and the index advances (R169, R170). -/
def dataByte (b : Byte) (s : State) : State :=
  match s.link.frame with
  | .writeData [b0, b1, b2] =>
    advanceIndex ((objectWriteEvent s.link.index (wordOfBytes b0 b1 b2 b) s).setFrame (.writeData []))
  | .writeData held => s.setFrame (.writeData (held ++ [b]))
  | _ => s

/-- LINK_DATA_BYTE (R170). -/
def execLinkDataByte (b : Byte) (s : State) : Outcome := whileRunning s (dataByte b)

/-- The frame state after a byte of an object was sent, by the controller's acknowledge (R170). -/
def afterSent (ack : Bool) (next : ReadPhase) : Frame := .readData (if ack then next else .ended)

/-- A byte is sent in a read frame: the value is taken at the object's first byte, and the index advances when its
fourth byte has been sent, acknowledged or not (R170). -/
def sendByte (ack : Bool) (s : State) : State :=
  match s.link.frame with
  | .readData .atStart =>
    s.setFrame (afterSent ack (.sending (readObject s (objectAt s.link.index)) 1))
  | .readData (.sending v n) =>
    if n < 3 then s.setFrame (afterSent ack (.sending v (n + 1)))
    else advanceIndex (s.setFrame (afterSent ack .atStart))
  | _ => s

/-- LINK_READ_BYTE (R170). -/
def execLinkReadByte (ack : Bool) (s : State) : Outcome := whileRunning s (sendByte ack)

/-- LINK_STOP (R171): a link reset, whatever the frame state. -/
def execLinkStop (s : State) : Outcome := whileRunning s linkReset

/-- An edge of SCL: within a frame, a falling edge starts the bus timeout timer and a rising edge stops it (R171). -/
def sclEdgeNow (e : SclEdge) (s : State) : State :=
  match e with
  | .falling =>
    if s.link.frame = .idle then s
    else { s with link := { s.link with busTimer := some 0 } }
  | .rising => { s with link := { s.link with busTimer := none } }

/-- SCL_EDGE (R171). -/
def execSclEdge (e : SclEdge) (s : State) : Outcome := whileRunning s (sclEdgeNow e)

end Sys2Proof.Machine
end

