-- ==== Sys2Proof/Machine/Ports.lean ====
section
/-! DEFINITION. The requester ports' channels: a request becomes the head or is discarded, and a response is
delivered (chapter 7, sections 7.1, 7.2 and 7.4). -/

namespace Sys2Proof.Machine

/-- The port takes a request from its channel: it holds no head request, PRST_N[n] is not asserted, and RST_N is not
asserted (R122, R138). -/
def takesRequest (s : State) (n : Port) : Bool :=
  !s.inReset && !(s.port n).held && (s.port n).head.isNone

/-- The head request is discarded and the violation flag set (R123, R124). -/
def discardHead (n : Port) (s : State) : State := s.setPort n { s.port n with violation := true }

/-- The check of a request that becomes the head (R123): discarded where its tag is outstanding or a code is
undefined, else kept as the head request. -/
def headArrives (n : Port) (tag : ReqTag) (body : Option ReqBody) (s : State) : State :=
  match body with
  | none => discardHead n s
  | some b =>
    if (s.port n).outstanding.contains tag then discardHead n s
    else s.setPort n { s.port n with head := some { tag := tag, body := b } }

/-- HEAD_REQUEST (R122, R123). Where the port takes no request, the record stays offered on the channel and the
part's state is unchanged (log 5). -/
def execHeadRequest (n : Port) (kind : BitVec 3) (tag : ReqTag) (addr : Addr) (len : BitVec 6) (lane : BitVec 2)
    (mask : ByteMask) (data : BitVec 256) (s : State) : Outcome :=
  whileRunning s fun s =>
    if takesRequest s n then headArrives n tag (requestBody kind addr len lane mask data) s else s

/-- The oldest response leaves the queue and its tag stops being outstanding (R132, R125). -/
def deliver (n : Port) (s : State) : State :=
  match (s.port n).queue with
  | [] => s
  | r :: rest =>
    s.setPort n { s.port n with queue := rest, outstanding := without r.tag (s.port n).outstanding }

/-- RESPONSE_DELIVERY (R132). -/
def execResponseDelivery (n : Port) (s : State) : Outcome := whileRunning s (deliver n)

end Sys2Proof.Machine
end

