-- ==== Sys2Proof/Machine/Outputs.lean ====
section
/-! DEFINITION. What the part drives, computed from the state: the response channels and REQ_TAKE (R121, R122), the
access on the memory port (R98, R102), the response take output, ALERT_N (R166), and the link's bytes and
acknowledges (R168 to R172). While RST_N is asserted the outputs are held quiet (R178). -/

namespace Sys2Proof.Machine

/-! ## Response channels (R121) -/

/-- The response that a port offers: the oldest of its queue (R132). -/
def offeredResponse (s : State) (n : Port) : Option Response :=
  if s.inReset then none else (s.port n).queue.head?

/-- The code of a status (R121). -/
def statusCode : Answer → Nat
  | .done => 0
  | .doneRead _ _ => 0
  | .fault _ => 1
  | .refused _ => 2
  | .retry _ => 3
  | .void => 4
  | .aborted _ => 5

/-- The code of a reason, 0 where absent (R121). -/
def reasonCode : Answer → Nat
  | .done => 0
  | .doneRead _ _ => 0
  | .void => 0
  | .refused .span => 1
  | .refused .empty => 2
  | .refused .noBundle => 3
  | .refused .laneBusy => 4
  | .refused .cls => 5
  | .refused .fenceInBundle => 6
  | .refused .mode => 7
  | .retry .noContext => 8
  | .retry .noFence => 9
  | .retry .quiesce => 10
  | .fault .memError => 11
  | .fault .memTimeout => 12
  | .fault .postedFault => 13
  | .aborted .quota => 14
  | .aborted .space => 15
  | .aborted .cls => 5
  | .aborted .idle => 16
  | .aborted .maint => 17

/-- The code of a source, 0 where absent (R121). -/
def sourceCode : Answer → Nat
  | .doneRead _ .buffer => 1
  | .doneRead _ .memory => 2
  | .doneRead _ .mixed => 3
  | _ => 0

/-- Bytes on a 256-bit field, byte i on bits 8i to 8i+7, zero elsewhere (R121). -/
def fieldOfBytes (bytes : List Byte) : BitVec 256 :=
  BitVec.ofNat 256 (bytes.foldr (fun b acc => b.toNat + 256 * acc) 0)

/-- The data field of a response (R121). -/
def dataField : Answer → BitVec 256
  | .doneRead data _ => fieldOfBytes data
  | _ => 0

/-- The signals of a response channel (R121). -/
structure ResponseSignals where
  valid : Bool
  tag : BitVec 4
  status : BitVec 3
  reason : BitVec 5
  source : BitVec 2
  data : BitVec 256
deriving DecidableEq, Repr

/-- The signals while no response is offered: valid low, and every field at zero. Under RST_N this is R178's. With an
empty queue and RST_N released the spec gives the fields no value (R121 speaks of an offered record), and zero there is
the model's choice (DESIGN CHOICE, log 16). -/
def quietResponse : ResponseSignals := { valid := false, tag := 0, status := 0, reason := 0, source := 0, data := 0 }

/-- The signals of a port's response channel (R121, R178). -/
def responseSignals (s : State) (n : Port) : ResponseSignals :=
  match offeredResponse s n with
  | none => quietResponse
  | some r =>
    { valid := true, tag := BitVec.ofNat 4 r.tag.val, status := BitVec.ofNat 3 (statusCode r.answer),
      reason := BitVec.ofNat 5 (reasonCode r.answer), source := BitVec.ofNat 2 (sourceCode r.answer),
      data := dataField r.answer }

/-! ## The memory port (R98, R102) -/

/-- An access as the memory controller sees it (R98). -/
inductive Access where
  | read (tag : AccessTag) (addr : Addr) (len : Nat)
  | write (tag : AccessTag) (line : Addr) (mask : ByteMask) (data : LineData)
deriving DecidableEq, Repr

/-- The access of an owner under a tag: a slot's address and length, or an entry's line, mask and data (R98). -/
def accessOf (s : State) (t : AccessTag) : Owner → Option Access
  | .write i => (s.entry i).committed?.map fun c => .write t c.line c.mask c.data
  | .read k =>
    match s.slot k with
    | .ready r => some (.read t r.addr r.len)
    | _ => none

/-- The access that the memory port offers: the arbiter's choice under the record it would take (R102); none while
RST_N is asserted (R178). -/
def offeredAccess (s : State) : Option Access :=
  if s.inReset then none
  else
    match s.accesses.lowest AccessRec.isFree, chosenGrant s with
    | some t, some g => accessOf s t g.owner
    | _, _ => none

/-- The response take output: the memory port takes each response at the moment it is offered, in every state
(R99, R178). -/
def takesMemoryResponse (_ : State) : Bool := true

/-! ## The link (R168 to R172) and ALERT_N (R166) -/

/-- ALERT_N is driven low (R166); it is not driven under RST_N (R178). -/
def alertDriven (s : State) : Bool := !s.inReset && alertAsserted s

/-- The part acknowledges an address byte: its own address, with either direction (R168). -/
def acksAddress (s : State) (b : Byte) : Bool := !s.inReset && ownAddress s b

/-- The part acknowledges a byte of the frame in progress: every index and data byte of a write frame (R169, R172). -/
def acksByte (s : State) : Bool :=
  !s.inReset &&
    (match s.link.frame with
    | .indexHigh => true
    | .indexLow _ => true
    | .writeData _ => true
    | .idle => false
    | .readData _ => false)

/-- The byte that the next LINK_READ_BYTE sends (R170); none where the part sends nothing, and none while RST_N is
asserted, when SDA is not driven (R178). -/
def byteSent (s : State) : Option Byte :=
  if s.inReset then none
  else
    match s.link.frame with
    | .readData .atStart => some (wordByte (readObject s (objectAt s.link.index)) 0)
    | .readData (.sending v n) => some (wordByte v n)
    | _ => none

end Sys2Proof.Machine
end

