-- ==== Sys2Proof/Machine/Dispatch.lean ====
section
/-! DEFINITION. One arm per command: the meaning it calls. -/

namespace Sys2Proof.Machine

/-- The effect of a command on everything but the queue. -/
def exec (i : Instr) (s : State) : Host.Outcome State Fault Refusal :=
  match i with
  | .headRequest port kind tag addr len lane mask data => Sys2Proof.Machine.execHeadRequest port kind tag addr len lane mask data s
  | .forwardedRead => Sys2Proof.Machine.execForwardedRead s
  | .orderedRead => Sys2Proof.Machine.execOrderedRead s
  | .plainWrite => Sys2Proof.Machine.execPlainWrite s
  | .memberWrite => Sys2Proof.Machine.execMemberWrite s
  | .fencePort => Sys2Proof.Machine.execFencePort s
  | .fenceAll => Sys2Proof.Machine.execFenceAll s
  | .bOpen => Sys2Proof.Machine.execBOpen s
  | .bClose => Sys2Proof.Machine.execBClose s
  | .bCancel => Sys2Proof.Machine.execBCancel s
  | .responseDelivery port => Sys2Proof.Machine.execResponseDelivery port s
  | .issue => Sys2Proof.Machine.execIssue s
  | .memoryResponse tag status data => Sys2Proof.Machine.execMemoryResponse tag status data s
  | .tick => Sys2Proof.Machine.execTick s
  | .ageReached entry => Sys2Proof.Machine.execAgeReached entry s
  | .idleExpiry ctx => Sys2Proof.Machine.execIdleExpiry ctx s
  | .accessTimeout tag => Sys2Proof.Machine.execAccessTimeout tag s
  | .prstAssert port => Sys2Proof.Machine.execPrstAssert port s
  | .prstRelease port => Sys2Proof.Machine.execPrstRelease port s
  | .deviceReset => Sys2Proof.Machine.execDeviceReset s
  | .deviceResetRelease strap => Sys2Proof.Machine.execDeviceResetRelease strap s
  | .linkStart addressByte => Sys2Proof.Machine.execLinkStart addressByte s
  | .linkIndexByte byte => Sys2Proof.Machine.execLinkIndexByte byte s
  | .linkDataByte byte => Sys2Proof.Machine.execLinkDataByte byte s
  | .linkReadByte ack => Sys2Proof.Machine.execLinkReadByte ack s
  | .linkStop => Sys2Proof.Machine.execLinkStop s
  | .busTimeout => Sys2Proof.Machine.execBusTimeout s
  | .enable => Sys2Proof.Machine.execEnable s
  | .quiesce => Sys2Proof.Machine.execQuiesce s
  | .resume => Sys2Proof.Machine.execResume s
  | .disable => Sys2Proof.Machine.execDisable s
  | .abortBundles => Sys2Proof.Machine.execAbortBundles s
  | .portReset port => Sys2Proof.Machine.execPortReset port s
  | .faultPop => Sys2Proof.Machine.execFaultPop s
  | .clearFlags => Sys2Proof.Machine.execClearFlags s
  | .releaseTags => Sys2Proof.Machine.execReleaseTags s
  | .highMark value => Sys2Proof.Machine.execHighMark value s
  | .lowMark value => Sys2Proof.Machine.execLowMark value s
  | .ageLimit value => Sys2Proof.Machine.execAgeLimit value s
  | .idleLimit value => Sys2Proof.Machine.execIdleLimit value s
  | .memTimeout value => Sys2Proof.Machine.execMemTimeout value s
  | .tbdiv value => Sys2Proof.Machine.execTbdiv value s
  | .alertMask value => Sys2Proof.Machine.execAlertMask value s
  | .windowObject window part value => Sys2Proof.Machine.execWindowObject window part value s
  | .objectWrite index value => Sys2Proof.Machine.execObjectWrite index value s
  | .sclEdge edge => Sys2Proof.Machine.execSclEdge edge s

end Sys2Proof.Machine
end

