-- ==== Sys2Proof/Machine/Step.lean ====
section
/-! DEFINITION. One step: the command at the front of the queue, or, on an empty queue, one period of CLK (log 2). -/

namespace Sys2Proof.Machine

/-- Take the command at the front of the queue and run it with the queue's rest; on an empty queue one period of CLK
passes at the divider (R153, log 2), and none while RST_N is asserted. -/
def step (s : State) : Host.Outcome State Fault Refusal :=
  match s.pending with
  | c :: rest => exec c { s with pending := rest }
  | [] => whileRunning s clkPeriod

/-- The state with the command that a word spells at the front of its queue; no word spells one (log 14). -/
def State.withFetchWord (s : State) (nbits w : Nat) : State :=
  match decodeTableWord nbits w with
  | some c => { s with pending := c :: s.pending }
  | none => s

end Sys2Proof.Machine
end

