-- ==== Sys2Proof/Safety.lean ====
section
/-! DEFINITION. The invariants that the spec states of the part, and the few words the obligations are stated in. -/

namespace Sys2Proof.Safety

open Sys2Proof.Machine

/-! ## Entries, contexts and the commit order -/

/-- The commit order holds exactly the committed entries, each once; so every committed entry appears exactly once in
the chain of its line and once in its port's order queue, and no other entry appears in any (R3, R23). -/
def CommitOrderExact (s : State) : Prop :=
  s.commitOrder.Nodup ∧ ∀ i, i ∈ s.commitOrder ↔ (s.entry i).committed?.isSome = true

/-- The member lists of the OPEN contexts hold exactly the MEMBER entries, each once in one list, of the owner's port,
at most one per line of a list (R62, R73). -/
structure MembersExact (s : State) : Prop where
  nodup : ∀ c o, s.ctx c = .opened o → o.members.Nodup
  member : ∀ c o, s.ctx c = .opened o → ∀ i ∈ o.members, ∃ m, s.entry i = .member m ∧ m.port = o.port
  held : ∀ i m, s.entry i = .member m → ∃ c o, s.ctx c = .opened o ∧ i ∈ o.members
  one : ∀ c d o q i, s.ctx c = .opened o → s.ctx d = .opened q → i ∈ o.members → i ∈ q.members → c = d
  lines : ∀ c o, s.ctx c = .opened o → ∀ i ∈ o.members, ∀ j ∈ o.members, ∀ m n,
    s.entry i = .member m → s.entry j = .member n → m.line = n.line → i = j

/-- Entries, contexts and the commit order agree (R2, R3, R73). -/
def EntriesExact (s : State) : Prop := CommitOrderExact s ∧ MembersExact s

/-- In a list of entries, every entry older than an ISSUED one is itself ISSUED. -/
def IssuedFirst (s : State) (l : List EntryIx) : Prop :=
  l.Pairwise fun older younger => (s.entry younger).isIssued = true → (s.entry older).isIssued = true

/-- Each port's order queue (R25), the ORDERED list (R26) and each line chain (R4) are a run of ISSUED entries followed
by a run of PENDING entries. -/
def IssueOrder (s : State) : Prop :=
  (∀ p, IssuedFirst s (orderQueue s p)) ∧ IssuedFirst s (orderedList s) ∧ ∀ line, IssuedFirst s (lineChain s line)

/-! ## Accesses and their owners -/

/-- An OUTSTANDING record and its owner name each other (R100). -/
structure AccessOwners (s : State) : Prop where
  writeOwner : ∀ t i n, s.access t = .outstanding (.write i) n → ∃ c, s.entry i = .issued c t
  readOwner : ∀ t k n, s.access t = .outstanding (.read k) n → ∃ r o, s.slot k = .issued r t o
  ofEntry : ∀ i c t, s.entry i = .issued c t → ∃ n, s.access t = .outstanding (.write i) n
  ofSlot : ∀ k r t o, s.slot k = .issued r t o → ∃ n, s.access t = .outstanding (.read k) n

/-! ## Bundles -/

/-- A lane has at most one context; a port's two contexts have two ranks, and a context of rank SECOND has one of rank
FIRST beside it (R64). -/
structure LanesAndRanks (s : State) : Prop where
  lane : ∀ c d, (s.ctx c).laneOf? = (s.ctx d).laneOf? → (s.ctx c).laneOf? ≠ none → c = d
  rank : ∀ c d p, (s.ctx c).ownedBy p = true → (s.ctx d).ownedBy p = true → (s.ctx c).rank? = (s.ctx d).rank? → c = d
  first : ∀ c p, (s.ctx c).ownedBy p = true → (s.ctx c).rank? = some .second →
    ∃ d, (s.ctx d).ownedBy p = true ∧ (s.ctx d).rank? = some .first

/-- A member list holds at most BUNDLE_QUOTA entries, and the MEMBER entries number at most 64 - RESERVE (R73). -/
def MemberBounds (s : State) : Prop :=
  (∀ c o, s.ctx c = .opened o → o.members.length ≤ s.config.bundleQuota) ∧
    memberEntries s + s.config.reserve ≤ 64

/-! ## Configuration, pressure and mode -/

/-- A window as R140 allows it: the size exponent is 12 to 40, and an enabled window is aligned to its size. -/
def WindowLegal (w : Window) : Prop :=
  12 ≤ w.exponent ∧ w.exponent ≤ 40 ∧ (w.enabled = true → w.base.toNat % 2 ^ w.exponent = 0)

/-- Every configuration item lies in its range (R15, R29, R80, R105, R113, R152, R153), HIGH_MARK above LOW_MARK, and
every window is legal. -/
structure ConfigLegal (s : State) : Prop where
  quota : 1 ≤ s.config.bundleQuota ∧ s.config.bundleQuota ≤ 32
  reserve : 4 ≤ s.config.reserve ∧ s.config.reserve ≤ 32
  high : 8 ≤ s.config.highMark ∧ s.config.highMark ≤ 64
  low : s.config.lowMark ≤ 63
  marks : s.config.lowMark < s.config.highMark
  age : s.config.ageLimit ≤ 1023
  idle : 1 ≤ s.config.idleLimit ∧ s.config.idleLimit ≤ 65535
  timeout : 1 ≤ s.config.memTimeout ∧ s.config.memTimeout ≤ 4095
  readRun : 1 ≤ s.config.readRunLimit ∧ s.config.readRunLimit ≤ 16
  tbdiv : 1 ≤ s.config.tbdiv ∧ s.config.tbdiv ≤ 1024
  windows : ∀ w, WindowLegal (s.windows.get w)

/-- The pressure flag agrees with the occupancy wherever the marks decide it (R14). -/
def PressureAgrees (s : State) : Prop :=
  (s.config.highMark ≤ occupancy s → s.pressure = true) ∧ (occupancy s ≤ s.config.lowMark → s.pressure = false)

/-- QUIESCED has an empty buffer, QUIESCING has not (R149), and no context is OPEN in PASS (R65, R151). -/
structure ModeAgrees (s : State) : Prop where
  quiesced : s.mode = .quiesced → occupancy s = 0
  quiescing : s.mode = .quiescing → occupancy s ≠ 0
  pass : s.mode = .pass → ∀ c, (s.ctx c).isOpen = false

/-! ## Reads, fences and tags -/

/-- A blocked-by set names only slots that cover the entry's line, and an ISSUED entry's is empty (R8, R34). A WAITING
slot waits for at least one entry and only for PENDING ones; any other slot in use waits for none (R42, R52). -/
structure HoldsLive (s : State) : Prop where
  covers : ∀ i a, (s.entry i).committed? = some a → ∀ k ∈ a.blockedBy, (s.slot k).covers a.line = true
  issued : ∀ i a t, s.entry i = .issued a t → a.blockedBy = []
  waiting : ∀ k r, s.slot k = .waiting r →
    ∃ w, r.waitsFor = some w ∧ w ≠ [] ∧ ∀ i ∈ w, (s.entry i).isPending = true
  ready : ∀ k r, s.slot k = .ready r → r.waitsFor.getD [] = []
  sent : ∀ k r t o, s.slot k = .issued r t o → r.waitsFor.getD [] = []

/-- The wait set of a WAITING record is never empty, and holds committed entries only, each at most once (R85, R91). -/
def WaitSetsLive (s : State) : Prop :=
  ∀ j w, s.fence j = .waiting w →
    w.waitSet ≠ [] ∧ w.waitSet.Nodup ∧ ∀ i ∈ w.waitSet, (s.entry i).committed?.isSome = true

/-- The entry still owes port p an answer under a request tag: it is committed with that reply tag. -/
def entryOwes (p : Port) (tag : ReqTag) (e : Entry) : Bool :=
  e.committedWith fun c => c.port == p && c.replyTag == some tag

/-- The slot still owes port p an answer under a request tag: it is in use for that read and not orphaned. -/
def slotOwes (p : Port) (tag : ReqTag) : Slot → Bool
  | .free => false
  | .waiting r => r.port == p && r.tag == tag
  | .ready r => r.port == p && r.tag == tag
  | .issued r _ orphaned => !orphaned && r.port == p && r.tag == tag

/-- The fence record still owes port p an answer under a request tag. -/
def fenceOwes (p : Port) (tag : ReqTag) : FenceRec → Bool
  | .free => false
  | .waiting w => w.port == p && w.tag == tag

/-- How many responses port p holds or will be given under a request tag, as the state stands: queued records, THROUGH
entries with that reply tag, reads in a slot, and waiting fences. -/
def answersDue (s : State) (p : Port) (tag : ReqTag) : Nat :=
  (s.port p).queue.countP (fun r => r.tag == tag) + s.entries.count (entryOwes p tag) +
    s.slots.count (slotOwes p tag) + s.fences.count (fenceOwes p tag)

/-- Every outstanding tag has exactly one response queued or to come, and no other tag has one (R125, R132, R133). Only
THROUGH entries carry a reply tag (R1), and the tag of a head request is not outstanding (R123). -/
structure TagsAccounted (s : State) : Prop where
  due : ∀ p tag, answersDue s p tag = if tag ∈ (s.port p).outstanding then 1 else 0
  nodup : ∀ p, (s.port p).outstanding.Nodup
  reply : ∀ i c, (s.entry i).committed? = some c → c.replyTag ≠ none → c.cls = .through
  head : ∀ p r, (s.port p).head = some r → r.tag ∉ (s.port p).outstanding

/-! ## Words for the statements -/

/-- The first item of a table that passes a test, by its position. -/
def FirstAt {α : Type} {n : Nat} (t : Table α n) (test : α → Prop) (i : Fin n) : Prop :=
  test (t.get i) ∧ ∀ j, j < i → ¬ test (t.get j)

/-- The intake grants port p, whose head request carries this tag and body, and RST_N is not asserted (R130). -/
structure Offers (s : State) (p : Port) (tag : ReqTag) (body : ReqBody) : Prop where
  running : s.inReset = false
  grant : granted s = some p
  head : (s.port p).head = some { tag := tag, body := body }

/-- Port p after the acceptance of its head request: no head, the tag outstanding. -/
def takenPort (s : State) (p : Port) (tag : ReqTag) : PortState :=
  { s.port p with head := none, outstanding := insertTag tag (s.port p).outstanding }

/-- Port p after the acceptance of its head request with a response placed in the same event. -/
def answeredPort (s : State) (p : Port) (tag : ReqTag) (a : Answer) : PortState :=
  { takenPort s p tag with queue := (s.port p).queue ++ [{ tag := tag, answer := a }] }

/-- The state with the head request of port p accepted and not answered yet (R125, R130). -/
def taken (s : State) (p : Port) (tag : ReqTag) : State :=
  { s with ports := s.ports.set p (takenPort s p tag), intakePtr := p + 1 }

/-- The state with the head request of port p accepted and answered in the same event (R125, R130, R132). -/
def answered (s : State) (p : Port) (tag : ReqTag) (a : Answer) : State :=
  { s with ports := s.ports.set p (answeredPort s p tag a), intakePtr := p + 1 }

/-- The pressure flag after an evaluation against an occupancy (R14). -/
def pressureAt (s : State) (occ : Nat) : Bool :=
  if s.config.highMark ≤ occ then true else if occ ≤ s.config.lowMark then false else s.pressure

/-- The mode and the mode event flag of `t` follow from `s` and the occupancy of `t` (R149, R163). -/
def ModeFollows (s t : State) : Prop :=
  (s.mode = .quiescing → occupancy t = 0 → t.mode = .quiesced ∧ t.modeEvent = true) ∧
    (¬ (s.mode = .quiescing ∧ occupancy t = 0) → t.mode = s.mode ∧ t.modeEvent = s.modeEvent)

/-- The entry is held as a member by an OPEN context of port p. -/
def MemberOf (s : State) (p : Port) (i : EntryIx) : Prop := ∃ c o, s.ctx c = .opened o ∧ o.port = p ∧ i ∈ o.members

/-- The slot is WAITING or READY with this read. -/
def Unissued (s : State) (k : SlotIx) (r : ReadRec) : Prop := s.slot k = .waiting r ∨ s.slot k = .ready r

/-- The entry is the combining target of a plain write: every condition of R9 and R10. -/
structure Combines (s : State) (p : Port) (cls : WClass) (line : Addr) (i : EntryIx) (c : Committed) : Prop where
  tail : (orderQueue s p).getLast? = some i
  pending : s.entry i = .pending c
  post : c.cls = .post ∧ cls = .post
  youngest : (lineChain s c.line).getLast? = some i
  onLine : c.line = line
  free : ∀ k r, Unissued s k r → lineOf r.addr ≠ line

/-- An entry stands in a list with the entries `older` before it and the entries `younger` behind it. -/
def Stands (l : List EntryIx) (i : EntryIx) (older younger : List EntryIx) : Prop := l = older ++ i :: younger

/-- A PENDING entry is due by its own cause (R30). -/
def OwnCause (s : State) (i : EntryIx) (c : Committed) : Prop :=
  c.cls = .ordered ∨ c.cls = .through ∨ s.config.ageLimit ≤ c.age ∨ s.pressure = true ∨
    (∃ j w, s.fence j = .waiting w ∧ i ∈ w.waitSet) ∨ s.mode = .quiescing

/-- The request of a fence of a kind. -/
def fenceBody : FenceKind → ReqBody
  | .port => .fencePort
  | .all => .fenceAll

/-- The row of the table that accepts a fence of a kind. -/
def fenceRow : FenceKind → Instr
  | .port => .fencePort
  | .all => .fenceAll

/-- The next tick brings the timer of the access record to MEM_TIMEOUT, or finds it above (R112, R113). -/
def TimesOutNext (s : State) (t : AccessTag) : Prop :=
  ∃ owner n, s.access t = .outstanding owner n ∧ s.config.memTimeout ≤ n + 1

/-- The next tick brings the idle timer of the context to IDLE_LIMIT, or finds it above (R79, R80). -/
def IdlesOutNext (s : State) (c : CtxIx) : Prop := ∃ o, s.ctx c = .opened o ∧ s.config.idleLimit ≤ o.idle + 1

/-- The next tick brings the bus timeout timer to 25,000 ticks (R171). -/
def BusTimesOutNext (s : State) : Prop := ∃ n, s.link.busTimer = some n ∧ 25000 ≤ n + 1

/-- An object write at an index was made with this result (R174). -/
def written (s : State) (index : BitVec 16) (r : LastResult) : State :=
  { s with link := { s.link with lastResult := r, lastIndex := index } }

/-- A value of an object is stored when `ok`, with ACCEPTED, and refused with REFUSED-VALUE otherwise (R173). -/
def storedIf (ok : Prop) [Decidable ok] (s t : State) (index : BitVec 16) : State :=
  if ok then written t index .accepted else written s index .refusedValue

/-- The premises of a member write, a close or a cancel on an OPEN lane: the context c of the port stands on the lane. -/
def OpenLane (s : State) (p : Port) (l : Lane) (c : CtxIx) (o : OpenCtx) : Prop :=
  EntriesExact s ∧ LanesAndRanks s ∧ s.ctx c = .opened o ∧ o.port = p ∧ o.lane = l

/-- The context c is freed: where its rank was FIRST its port's other context becomes FIRST, and no other changes. -/
def CtxFreed (s t : State) (c : CtxIx) (p : Port) (rank : Rank) : Prop :=
  t.ctx c = .free ∧
    ∀ d, d ≠ c → t.ctx d = if rank = .first ∧ (s.ctx d).ownedBy p = true then (s.ctx d).asFirst else s.ctx d

/-- The states of R152 in which the interlocked objects may be written. -/
def Unlocked (s : State) : Prop :=
  (s.mode = .quiesced ∧ ∀ c o, s.ctx c ≠ .opened o) ∨ (s.mode = .pass ∧ occupancy s = 0)

/-- The context of port p with a rank holds, in its member on the line, a byte at the position. -/
def MemberByte (s : State) (p : Port) (r : Rank) (line : Addr) (pos : Nat) (b : Byte) : Prop :=
  ∃ c o i m, s.ctx c = .opened o ∧ o.port = p ∧ o.rank = r ∧ i ∈ o.members ∧ s.entry i = .member m ∧ m.line = line ∧
    selects m.mask pos = true ∧ byteAt m.data pos = b

end Sys2Proof.Safety
end

