-- ==== Sys2Proof/Certificates/Slice0/Obligations.lean ====
section
/-! DEFINITION. The statements for the provers. -/

section ObligationStatements

open Sys2Proof Sys2Proof.Machine Sys2Proof.Safety

/-! ## The queue, RST_N and the resets -/

/-- A step runs the command at the front of the queue on the state with the queue's rest. -/
def Obligations.StepRunsTheFrontCommand : Prop :=
  ∀ (c : Instr) (rest : List Instr) (s : State),
    step { s with pending := c :: rest } = exec c { s with pending := rest }

/-- On an empty queue one period of CLK passes: the divider counts it, or it makes the tick of command TICK; under RST_N
nothing happens. The model's choice (log 2). -/
def Obligations.EmptyQueuePassesOneClockPeriod : Prop :=
  ∀ s : State, s.pending = [] →
    (s.inReset = true → step s = .next s) ∧
    (s.inReset = false → s.divider + 1 < s.config.tbdiv → step s = .next { s with divider := s.divider + 1 }) ∧
    (s.inReset = false → s.config.tbdiv ≤ s.divider + 1 → step s = exec .tick s)

/-- No command stops the part, and none touches the queue. -/
def Obligations.EveryCommandAnswersNext : Prop :=
  ∀ (c : Instr) (s : State), ∃ t, exec c s = .next t ∧ t.pending = s.pending

/-- While RST_N is asserted no request is taken, no response is offered and its fields are zero, no access is issued,
nothing is driven on SDA or ALERT_N, and a command has no effect; PRST_N levels are kept without effect (log 12). -/
def Obligations.UnderDeviceResetNothingHappens : Prop :=
  ∀ s : State, s.inReset = true →
    (∀ c : Instr, (∀ n, c ≠ .prstAssert n) → (∀ n, c ≠ .prstRelease n) → c ≠ .deviceReset →
      (∀ v, c ≠ .deviceResetRelease v) → exec c s = .next s) ∧
    (∀ n, exec (.prstAssert n) s = .next { s with ports := s.ports.set n { s.port n with held := true } }) ∧
    (∀ n, takesRequest s n = false ∧
      responseSignals s n = { valid := false, tag := 0, status := 0, reason := 0, source := 0, data := 0 }) ∧
    offeredAccess s = none ∧ takesMemoryResponse s = true ∧ alertDriven s = false ∧
    (∀ b, acksAddress s b = false) ∧ acksByte s = false ∧ byteSent s = none

/-- RST_N sets every block to its device-reset state; its release keeps the strap and starts the divider afresh. The
order numbers of reads and of fences are the model's counters and start again at 0 (log 8; R61 says only that the
sequences start anew). The PRST_N levels, the strap kept last and the model's own fields stay (log 12), State.reset is
what a device reset and its release with the strap at 0 leave (log 7), and a release where RST_N is not asserted changes
nothing (log 1). -/
def Obligations.DeviceResetAndRelease : Prop :=
  (∀ s : State, ∃ t, exec .deviceReset s = .next t ∧ t.inReset = true ∧
    (∀ n, t.port n =
      { head := none, outstanding := [], queue := [], violation := false, portFault := false,
        held := (s.port n).held, nextSeq := 0 }) ∧
    t.intakePtr = 0 ∧
    (∀ w, t.windows.get w = { enabled := false, base := 0, exponent := 12, cls := .through }) ∧
    (∀ i, t.entry i = .free) ∧ t.commitOrder = [] ∧ t.pressure = false ∧
    (∀ k, t.slot k = .free) ∧ (∀ c, t.ctx c = .free) ∧ (∀ j, t.fence j = .free) ∧ t.nextFence = 0 ∧
    (∀ a, t.access a = .free) ∧
    t.arbiter = { readRun := 0, lastClass := .none, reads := { high := 0, low := 0 }, drains := { high := 0, low := 0 } } ∧
    t.faultList = [] ∧ t.overflow = false ∧ t.stray = false ∧ t.modeEvent = false ∧ t.mode = .pass ∧
    t.config =
      { bundleQuota := 16, reserve := 8, highMark := 48, lowMark := 32, ageLimit := 64, idleLimit := 1000,
        memTimeout := 100, readRunLimit := 4, portLow := Table.replicate 4 false, tbdiv := 200,
        defaultClass := .through, alertMask := { fault := true, violation := true, stray := true, mode := false } } ∧
    t.divider = 0 ∧ t.timeCount = 0 ∧
    t.link =
      { strap := s.link.strap, frame := .idle, index := 0, lastResult := .none, lastIndex := 0, busTimer := none } ∧
    t.freeCount = s.freeCount ∧ t.pending = s.pending) ∧
  (∀ (s : State) (v : BitVec 2),
    (s.inReset = true →
      exec (.deviceResetRelease v) s =
        .next { s with inReset := false, divider := 0, link := { s.link with strap := v } } ∧
      busAddress { s with inReset := false, divider := 0, link := { s.link with strap := v } } = 0x3A + v.toNat) ∧
    (s.inReset = false → exec (.deviceResetRelease v) s = .next s)) ∧
  ∃ t, exec .deviceReset State.reset = .next t ∧ exec (.deviceResetRelease 0) t = .next State.reset

/-- A port reset of port n, by PRST_N_ASSERT (the port is then held) or by PORT_RESET (the port stays as held as it was,
and the last result is ACCEPTED), and the release of PRST_N. The model's choices: a PRST_N_ASSERT on a port already held
repeats the reset, and PRST_N_RELEASE keeps its level under RST_N too (log 12); pressure is evaluated also where no entry
was released (log 18); the port's next order number stays (log 8). -/
def Obligations.PortResetAndRelease : Prop :=
  ∀ (s : State) (n : Port),
    (s.inReset = false →
      ∃ t, exec (.prstAssert n) s = .next { t with ports := t.ports.set n { t.port n with held := true } } ∧
        exec (.portReset n) s = .next (written t 0x0020 .accepted) ∧
        t.port n =
          { s.port n with head := none, queue := [], outstanding := [], violation := false, portFault := false } ∧
        (∀ q, q ≠ n → t.port q = s.port q) ∧
        (∀ i, MemberOf s n i → t.entry i = .free) ∧
        (∀ i, ¬ MemberOf s n i → t.entry i =
          (s.entry i).mapCommitted fun c =>
            { c with
              replyTag := if c.port = n ∧ c.cls = .through then none else c.replyTag
              blockedBy := c.blockedBy.filter fun k => !((s.slot k).unissued?.any fun r => r.port == n) }) ∧
        (∀ k r, Unissued s k r → t.slot k = if r.port = n then .free else s.slot k) ∧
        (∀ k r a o, s.slot k = .issued r a o → t.slot k = if r.port = n then .issued r a true else .issued r a o) ∧
        (∀ k, s.slot k = .free → t.slot k = .free) ∧
        (∀ c, t.ctx c = if (s.ctx c).ownedBy n = true then .free else s.ctx c) ∧
        (∀ j w, s.fence j = .waiting w → t.fence j = if w.port = n then .free else .waiting w) ∧
        (∀ j, s.fence j = .free → t.fence j = .free) ∧
        t.pressure = pressureAt s (occupancy t) ∧ ModeFollows s t ∧
        t = { s with ports := t.ports, entries := t.entries, slots := t.slots, contexts := t.contexts,
                     fences := t.fences, pressure := t.pressure, mode := t.mode, modeEvent := t.modeEvent }) ∧
    exec (.prstRelease n) s = .next { s with ports := s.ports.set n { s.port n with held := false } }

/-! ## Requester ports and intake -/

/-- HEAD_REQUEST: a port that is held or has a head takes nothing, and the offer changes nothing (log 5); otherwise
the record becomes the head, or is discarded with the violation flag set, by the check of R123. The signals carry the
fields as R121 codes them. -/
def Obligations.HeadRequestKeptOrDiscarded : Prop :=
  ∀ (s : State) (n : Port) (kind : BitVec 3) (tag : ReqTag) (addr : Addr) (len : BitVec 6) (lane : BitVec 2)
    (mask : ByteMask) (data : BitVec 256),
    (requestBody kind addr len lane mask data = none ↔
      kind = 7 ∨ (kind = 1 ∧ lane = 3) ∨ ((kind = 4 ∨ kind = 5 ∨ kind = 6) ∧ (lane = 0 ∨ lane = 3))) ∧
    requestBody 0 addr len lane mask data = some (.read addr len.toNat) ∧
    requestBody 1 addr len 0 mask data = some (.write addr none mask (lineDataOf data)) ∧
    requestBody 1 addr len 1 mask data = some (.write addr (some .l0) mask (lineDataOf data)) ∧
    requestBody 1 addr len 2 mask data = some (.write addr (some .l1) mask (lineDataOf data)) ∧
    (∀ i : Fin 32, (lineDataOf data).get i = data.extractLsb' (8 * i.val) 8) ∧
    requestBody 2 addr len lane mask data = some .fencePort ∧
    requestBody 3 addr len lane mask data = some .fenceAll ∧
    requestBody 4 addr len 1 mask data = some (.bOpen .l0) ∧ requestBody 4 addr len 2 mask data = some (.bOpen .l1) ∧
    requestBody 5 addr len 1 mask data = some (.bClose .l0) ∧ requestBody 5 addr len 2 mask data = some (.bClose .l1) ∧
    requestBody 6 addr len 1 mask data = some (.bCancel .l0) ∧
    requestBody 6 addr len 2 mask data = some (.bCancel .l1) ∧
    (s.inReset = false →
      ((s.port n).held = true ∨ (s.port n).head ≠ none →
        exec (.headRequest n kind tag addr len lane mask data) s = .next s) ∧
      ((s.port n).held = false → (s.port n).head = none →
        (tag ∈ (s.port n).outstanding ∨ requestBody kind addr len lane mask data = none →
          exec (.headRequest n kind tag addr len lane mask data) s =
            .next { s with ports := s.ports.set n { s.port n with violation := true } }) ∧
        (∀ body, tag ∉ (s.port n).outstanding → requestBody kind addr len lane mask data = some body →
          exec (.headRequest n kind tag addr len lane mask data) s =
            .next { s with ports := s.ports.set n { s.port n with head := some { tag := tag, body := body } } })))

/-- The oldest response of a port is offered, its fields coded as R120 and R121 say; RESPONSE_DELIVERY removes it from the
queue and its tag stops being outstanding. With an empty queue no response is offered, and the command changes nothing
(log 1). -/
def Obligations.ResponseDeliveryFreesTheTag : Prop :=
  ∀ (s : State) (n : Port), s.inReset = false →
    offeredResponse s n = (s.port n).queue.head? ∧
    ((s.port n).queue = [] → (responseSignals s n).valid = false ∧ exec (.responseDelivery n) s = .next s) ∧
    ∀ r rest m, (s.port n).queue = r :: rest → responseSignals s n = m →
      m.valid = true ∧ m.tag.toNat = r.tag.val ∧
      (r.answer = .done → m.status = 0 ∧ m.reason = 0 ∧ m.source = 0 ∧ m.data = 0) ∧
      (∀ bytes source, r.answer = .doneRead bytes source →
        m.status = 0 ∧ m.reason = 0 ∧
        m.source = (match source with | .buffer => 1 | .memory => 2 | .mixed => 3) ∧
        ∀ i < 32, m.data.extractLsb' (8 * i) 8 = bytes[i]?.getD 0) ∧
      (∀ why, r.answer = .fault why →
        m.status = 1 ∧ m.source = 0 ∧ m.data = 0 ∧
        m.reason = (match why with | .memError => 11 | .memTimeout => 12 | .postedFault => 13)) ∧
      (∀ why, r.answer = .refused why →
        m.status = 2 ∧ m.source = 0 ∧ m.data = 0 ∧
        m.reason =
          (match why with
          | .span => 1 | .empty => 2 | .noBundle => 3 | .laneBusy => 4 | .cls => 5 | .fenceInBundle => 6 | .mode => 7)) ∧
      (∀ why, r.answer = .retry why →
        m.status = 3 ∧ m.source = 0 ∧ m.data = 0 ∧
        m.reason = (match why with | .noContext => 8 | .noFence => 9 | .quiesce => 10)) ∧
      (r.answer = .void → m.status = 4 ∧ m.reason = 0 ∧ m.source = 0 ∧ m.data = 0) ∧
      (∀ why, r.answer = .aborted why →
        m.status = 5 ∧ m.source = 0 ∧ m.data = 0 ∧
        m.reason = (match why with | .quota => 14 | .space => 15 | .cls => 5 | .idle => 16 | .maint => 17)) ∧
      exec (.responseDelivery n) s =
        .next { s with
          ports := s.ports.set n
            { s.port n with
              queue := rest
              outstanding := (s.port n).outstanding.filter fun u => u != r.tag } }

/-- The intake's scan grants the first port in cyclic order from the pointer that is not held in reset and whose head
request can be taken; where there is none, no acceptance takes place. -/
def Obligations.IntakeGrantsFirstTakeablePort : Prop :=
  ∀ s : State,
    (∀ p, takeable s p = true ↔
      (s.port p).held = false ∧ (∃ r, (s.port p).head = some r) ∧ headWaiting s p = false) ∧
    (∀ p, granted s = some p ↔
      takeable s p = true ∧ ∀ q, (q - s.intakePtr).val < (p - s.intakePtr).val → takeable s q = false) ∧
    (granted s = none ↔ ∀ p, takeable s p = false) ∧
    (s.inReset = false → granted s = none →
      ∀ c ∈ [Instr.forwardedRead, .orderedRead, .plainWrite, .memberWrite, .fencePort, .fenceAll, .bOpen, .bClose,
        .bCancel], exec c s = .next s)

/-- A head request waits exactly in the four cases of R129; fences and bundle requests never wait. -/
def Obligations.HeadWaitsExactlyWhen : Prop :=
  ∀ (s : State) (p : Port) (r : Request), (s.port p).head = some r →
    (headWaiting s p = true ↔
      (∃ addr mask data, r.body = .write addr none mask data ∧ mask ≠ 0 ∧
        (∀ i c, ¬ Combines s p (plainClass s addr) (lineOf addr) i c) ∧ ∀ i, s.entry i ≠ .free) ∨
      (∃ addr l mask data c o, r.body = .write addr (some l) mask data ∧ mask ≠ 0 ∧
        contextOn s p l = some c ∧ s.ctx c = .opened o ∧ classOf s addr = .post ∧
        memberOn s o (lineOf addr) = none ∧ o.members.length < s.config.bundleQuota ∧
        memberEntries s < 64 - s.config.reserve ∧ freeEntries s < s.config.reserve + 1) ∨
      (∃ addr len, r.body = .read addr len ∧ spanFails addr len = false ∧ (∀ k, s.slot k ≠ .free) ∧
        (classOf s addr = .ordered ∨ fullyCovered (snapshotOf s p addr len) = false)) ∨
      (∃ addr lane mask data, r.body = .write addr lane mask data ∧ mask ≠ 0 ∧
        (s.mode = .quiescing ∨ s.mode = .quiesced)))

/-- A READ that breaks the span rule is refused with SPAN, by either read row (log 9), a WRITE with an empty mask with
EMPTY, whatever the state of the part; nothing but the port and the pointer changes. -/
def Obligations.MalformedRequestsAreRefused : Prop :=
  ∀ (s : State) (p : Port) (tag : ReqTag),
    (∀ addr len, len = 0 ∨ 32 < len ∨ 32 < addr.toNat % 32 + len →
      ((s.port p).held = false → (s.port p).head = some ⟨tag, .read addr len⟩ → takeable s p = true) ∧
      (Offers s p tag (.read addr len) →
        exec .forwardedRead s = .next (answered s p tag (.refused .span)) ∧
        exec .orderedRead s = .next (answered s p tag (.refused .span)))) ∧
    (∀ addr lane data,
      ((s.port p).held = false → (s.port p).head = some ⟨tag, .write addr lane 0 data⟩ → takeable s p = true) ∧
      (Offers s p tag (.write addr lane 0 data) →
        exec (if lane = none then .plainWrite else .memberWrite) s =
          .next (answered s p tag (.refused .empty))))

/-! ## Reads -/

/-- A forwarded read whose snapshot covers every requested byte is answered at acceptance with source BUFFER; any other
takes the lowest FREE slot, READY. Both use the port's next order number, a counter of the model's (log 8), the one
answered at once by the model's reading (log 20). -/
def Obligations.ForwardedReadAnsweredOrSlotted : Prop :=
  ∀ (s : State) (p : Port) (tag : ReqTag) (addr : Addr) (len : Nat),
    Offers s p tag (.read addr len) → 1 ≤ len → addr.toNat % 32 + len ≤ 32 → classOf s addr ≠ .ordered →
    (∀ bytes : List Byte, snapshotOf s p addr len = bytes.map some →
      exec .forwardedRead s =
        .next { answered s p tag (.doneRead bytes .buffer) with
          ports := s.ports.set p
            { answeredPort s p tag (.doneRead bytes .buffer) with nextSeq := (s.port p).nextSeq + 1 } }) ∧
    (∀ k, none ∈ snapshotOf s p addr len → FirstAt s.slots (fun x => x = .free) k →
      exec .forwardedRead s =
        .next { taken s p tag with
          ports := s.ports.set p { takenPort s p tag with nextSeq := (s.port p).nextSeq + 1 }
          slots := s.slots.set k
            (.ready
              { port := p, tag := tag, addr := addr, len := len, seq := (s.port p).nextSeq,
                snapshot := snapshotOf s p addr len, waitsFor := none }) })

/-- A requested byte takes its value from the port's SECOND context, else from its FIRST, else from the youngest committed
entry of the line that holds it, else it is not covered. -/
def Obligations.SnapshotByteIsTheTopmostWriter : Prop :=
  ∀ (s : State) (p : Port) (addr : Addr) (len i : Nat), EntriesExact s → LanesAndRanks s → i < len →
    (∀ b, MemberByte s p .second (lineOf addr) (lineOffset addr + i) b →
      (snapshotOf s p addr len)[i]? = some (some b)) ∧
    (∀ b, (∀ a, ¬ MemberByte s p .second (lineOf addr) (lineOffset addr + i) a) →
      MemberByte s p .first (lineOf addr) (lineOffset addr + i) b →
      (snapshotOf s p addr len)[i]? = some (some b)) ∧
    ((∀ r a, ¬ MemberByte s p r (lineOf addr) (lineOffset addr + i) a) →
      (snapshotOf s p addr len)[i]? =
        some ((((lineChain s (lineOf addr)).filterMap fun j => (s.entry j).committed?).reverse.find?
          fun c => selects c.mask (lineOffset addr + i)).map fun c => byteAt c.data (lineOffset addr + i)))

/-- A read of port p depends on no other port's bundles: two states with the same committed entries and the same OPEN
contexts and members of port p give it the same snapshot. -/
def Obligations.OtherPortsMembersAreUnseen : Prop :=
  ∀ (s t : State) (p : Port) (addr : Addr) (len : Nat),
    s.commitOrder = t.commitOrder →
    (∀ i, (s.entry i).committed? = (t.entry i).committed?) →
    (∀ c o, o.port = p → (s.ctx c = .opened o ↔ t.ctx c = .opened o)) →
    (∀ c o, o.port = p → s.ctx c = .opened o → ∀ i ∈ o.members, s.entry i = t.entry i) →
    snapshotOf s p addr len = snapshotOf t p addr len

/-- An ORDERED read takes the lowest FREE slot with no byte covered, WAITING for the PENDING entries that are ORDERED or on
its line, READY where there is none. It uses its port's next order number, a counter of the model's (log 8). -/
def Obligations.OrderedReadTakesSlot : Prop :=
  ∀ (s : State) (p : Port) (tag : ReqTag) (addr : Addr) (len : Nat) (k : SlotIx),
    Offers s p tag (.read addr len) → 1 ≤ len → addr.toNat % 32 + len ≤ 32 → classOf s addr = .ordered →
    FirstAt s.slots (fun x => x = .free) k →
    ∃ (w : List EntryIx) (r : ReadRec),
      w.Nodup ∧ (∀ i, i ∈ w ↔ ∃ c, s.entry i = .pending c ∧ (c.cls = .ordered ∨ c.line = lineOf addr)) ∧
      r = { port := p, tag := tag, addr := addr, len := len, seq := (s.port p).nextSeq,
            snapshot := List.replicate len none, waitsFor := some w } ∧
      exec .orderedRead s =
        .next { taken s p tag with
          ports := s.ports.set p { takenPort s p tag with nextSeq := (s.port p).nextSeq + 1 }
          slots := s.slots.set k (if w = [] then .ready r else .waiting r) }

/-- The end of a read access, by a MEMORY_RESPONSE or by a timeout at its tick (log 3): a slot that is not orphaned is
answered, with the response's bytes where its snapshot covers none, or with the failure; an orphaned slot is only freed.
The record ends FREE, or QUARANTINED after a timeout. -/
def Obligations.ReadAccessEndAnswersTheSlot : Prop :=
  ∀ (s : State) (t t' : AccessTag) (e : AccessEnd) (n : Nat) (k : SlotIx) (r : ReadRec) (orphaned : Bool),
    s.inReset = false → s.access t = .outstanding (.read k) n → s.slot k = .issued r t' orphaned →
    ∃ u, endAccess t e s = u ∧
      (∀ data, e = .ok data → exec (.memoryResponse t .ok data) s = .next u) ∧
      (e = .error → ∀ data, exec (.memoryResponse t .error data) s = .next u) ∧
      (orphaned = true →
        u = { s with
                accesses := s.accesses.set t (if e = .timeout then .quarantined else .free)
                slots := s.slots.set k .free }) ∧
      (orphaned = false →
        ∃ a,
          u = { s with
                  accesses := s.accesses.set t (if e = .timeout then .quarantined else .free)
                  slots := s.slots.set k .free
                  ports := s.ports.set r.port
                    { s.port r.port with queue := (s.port r.port).queue ++ [{ tag := r.tag, answer := a }] } } ∧
          (e = .error → a = .fault .memError) ∧ (e = .timeout → a = .fault .memTimeout) ∧
          ∀ data, e = .ok data → ∃ bytes,
            a = .doneRead bytes (if r.snapshot.any Option.isSome then .mixed else .memory) ∧
            bytes.length = r.snapshot.length ∧
            ∀ (i : Nat) (x : Option Byte), r.snapshot[i]? = some x →
              bytes[i]? = some (x.getD (data.extractLsb' (8 * i) 8)))

/-! ## Plain writes and classes -/

/-- The class of an address is that of the lowest-numbered enabled window that contains it, else DEFAULT_CLASS; a plain
write in PASS is THROUGH whatever the lookup gives; with legal windows the bytes of a line share one class. -/
def Obligations.ClassLookup : Prop :=
  ∀ (s : State) (a : Addr),
    (∀ w,
      FirstAt s.windows (fun x => x.enabled = true ∧ x.base.toNat ≤ a.toNat ∧ a.toNat < x.base.toNat + 2 ^ x.exponent)
        w → classOf s a = (s.windows.get w).cls) ∧
    ((∀ w, ¬ ((s.windows.get w).enabled = true ∧ (s.windows.get w).base.toNat ≤ a.toNat ∧
        a.toNat < (s.windows.get w).base.toNat + 2 ^ (s.windows.get w).exponent)) →
      classOf s a = s.config.defaultClass) ∧
    (s.mode = .pass → plainClass s a = .through) ∧
    (s.mode ≠ .pass → plainClass s a = classOf s a) ∧
    (∀ b, (∀ w, WindowLegal (s.windows.get w)) → lineOf a = lineOf b → classOf s a = classOf s b)

/-- The combining target is the tail of the writing port's order queue, where it passes every condition of R10; the write
is then laid over it, and nothing else of the buffer changes. -/
def Obligations.PlainWriteCombinesIntoTheTail : Prop :=
  (∀ (s : State) (p : Port) (cls : WClass) (line : Addr) (i : EntryIx) (c : Committed),
    combineTarget s p cls line = some (i, c) ↔ Combines s p cls line i c) ∧
  (∀ (old new : LineData) (mask : ByteMask) (pos : Fin 32),
    (layOver old mask new).get pos = if mask.getLsbD pos.val then new.get pos else old.get pos) ∧
  ∀ (s : State) (p : Port) (tag : ReqTag) (addr : Addr) (mask : ByteMask) (data : LineData) (i : EntryIx)
    (c : Committed),
    Offers s p tag (.write addr none mask data) → mask ≠ 0 → Combines s p (plainClass s addr) (lineOf addr) i c →
    exec .plainWrite s =
      .next { answered s p tag .done with
        entries := s.entries.set i
          (.pending { c with data := layOver c.data mask data, mask := c.mask ||| mask }) }

/-- A plain write that does not combine takes the lowest FREE entry, commits behind every other entry, blocked by the slots
that cover its line, and the pressure flag is evaluated; a THROUGH write keeps its tag for the answer at retirement. The
entry is the youngest of its line chain and the tail of its port's queue and, when ORDERED, of the ORDERED list. -/
def Obligations.PlainWriteTakesLowestFreeEntry : Prop :=
  ∀ (s : State) (p : Port) (tag : ReqTag) (addr : Addr) (mask : ByteMask) (data : LineData) (i : EntryIx),
    Offers s p tag (.write addr none mask data) → mask ≠ 0 →
    (∀ j c, ¬ Combines s p (plainClass s addr) (lineOf addr) j c) →
    FirstAt s.entries (fun e => e = .free) i →
    ∃ blockers : List SlotIx, blockers.Nodup ∧
      (∀ k, k ∈ blockers ↔ ∃ r, Unissued s k r ∧ lineOf r.addr = lineOf addr) ∧
      exec .plainWrite s =
        .next { (if plainClass s addr = .through then taken s p tag else answered s p tag .done) with
          entries := s.entries.set i
            (.pending
              { line := lineOf addr, data := data, mask := mask, cls := plainClass s addr, port := p,
                replyTag := if plainClass s addr = .through then some tag else none,
                fromBundle := false, age := 0, blockedBy := blockers })
          commitOrder := s.commitOrder ++ [i]
          pressure := pressureAt s (occupancy s + 1) } ∧
      (CommitOrderExact s → ∀ t, exec .plainWrite s = .next t →
        (∀ l, lineChain t l = lineChain s l ++ if l = lineOf addr then [i] else []) ∧
        (∀ q, orderQueue t q = orderQueue s q ++ if q = p then [i] else []) ∧
        orderedList t = orderedList s ++ if plainClass s addr = .ordered then [i] else [])

/-! ## Bundles -/

/-- A POST member write on a line that its OPEN context holds overlays that member and restarts the idle timer. -/
def Obligations.MemberWriteOverlaysItsLine : Prop :=
  ∀ (s : State) (p : Port) (tag : ReqTag) (l : Lane) (addr : Addr) (mask : ByteMask) (data : LineData) (c : CtxIx)
    (o : OpenCtx) (i : EntryIx) (m : Member),
    Offers s p tag (.write addr (some l) mask data) → mask ≠ 0 → OpenLane s p l c o → classOf s addr = .post →
    i ∈ o.members → s.entry i = .member m → m.line = lineOf addr →
    exec .memberWrite s =
      .next { answered s p tag .done with
        entries := s.entries.set i
          (.member { m with data := layOver m.data mask data, mask := m.mask ||| mask })
        contexts := s.contexts.set c (.opened { o with idle := 0 }) }

/-- A POST member write on a new line that passes quota, space and reserve takes the lowest FREE entry as the context's
last member; the idle timer restarts and the pressure flag is evaluated. -/
def Obligations.MemberWriteTakesLowestFreeEntry : Prop :=
  ∀ (s : State) (p : Port) (tag : ReqTag) (l : Lane) (addr : Addr) (mask : ByteMask) (data : LineData) (c : CtxIx)
    (o : OpenCtx) (i : EntryIx),
    Offers s p tag (.write addr (some l) mask data) → mask ≠ 0 → OpenLane s p l c o → classOf s addr = .post →
    (∀ j ∈ o.members, ∀ m, s.entry j = .member m → m.line ≠ lineOf addr) →
    o.members.length < s.config.bundleQuota → memberEntries s + s.config.reserve < 64 →
    s.config.reserve + 1 ≤ freeEntries s → FirstAt s.entries (fun e => e = .free) i →
    exec .memberWrite s =
      .next { answered s p tag .done with
        entries := s.entries.set i (.member { line := lineOf addr, data := data, mask := mask, port := p })
        contexts := s.contexts.set c (.opened { o with members := o.members ++ [i], idle := 0 })
        pressure := pressureAt s (occupancy s + 1) }

/-- The member writes that store nothing: no context on the lane (REFUSED, NO-BUNDLE), an ABORTED one (VOID), another
class (REFUSED, CLASS), and a new member beyond the quota or the space (VOID); the last three abort the context. -/
def Obligations.MemberWriteRefusedOrVoid : Prop :=
  ∀ (s : State) (p : Port) (tag : ReqTag) (l : Lane) (addr : Addr) (mask : ByteMask) (data : LineData),
    Offers s p tag (.write addr (some l) mask data) → mask ≠ 0 →
    ((∀ c, (s.ctx c).laneOf? ≠ some (p, l)) →
      exec .memberWrite s = .next (answered s p tag (.refused .noBundle))) ∧
    (∀ c rank reason, LanesAndRanks s → s.ctx c = .aborted p l rank reason →
      exec .memberWrite s = .next (answered s p tag .void)) ∧
    (∀ c o, OpenLane s p l c o →
      (classOf s addr ≠ .post →
        exec .memberWrite s = .next (answered (abortCtx c .cls s) p tag (.refused .cls))) ∧
      (classOf s addr = .post → (∀ j ∈ o.members, ∀ m, s.entry j = .member m → m.line ≠ lineOf addr) →
        (s.config.bundleQuota ≤ o.members.length →
          exec .memberWrite s = .next (answered (abortCtx c .quota s) p tag .void)) ∧
        (o.members.length < s.config.bundleQuota → 64 ≤ memberEntries s + s.config.reserve →
          exec .memberWrite s = .next (answered (abortCtx c .space s) p tag .void))))

/-- The abort of an OPEN context frees its members together and keeps port, lane, rank and the reason; a context that is not
OPEN is left as it is. IDLE_EXPIRY is the tick that brings the idle timer to IDLE_LIMIT and aborts the context with reason
IDLE (log 3), and changes nothing where the next tick does not (log 1). -/
def Obligations.AbortReleasesTheMembers : Prop :=
  ∀ (s : State) (c : CtxIx),
    (∀ o, s.ctx c = .opened o →
      (∀ reason, ∃ t, abortCtx c reason s = t ∧
        (∀ i, t.entry i = if i ∈ o.members then .free else s.entry i) ∧
        (∀ d, t.ctx d = if d = c then .aborted o.port o.lane o.rank reason else s.ctx d) ∧
        t.pressure = pressureAt s (occupancy t) ∧ ModeFollows s t ∧
        t = { s with entries := t.entries, contexts := t.contexts, pressure := t.pressure, mode := t.mode,
                     modeEvent := t.modeEvent }) ∧
      (s.inReset = false →
        (s.config.idleLimit ≤ o.idle + 1 →
          exec (.idleExpiry c) s = exec .tick s ∧
          ∃ u, exec (.idleExpiry c) s = .next u ∧ u.ctx c = .aborted o.port o.lane o.rank .idle ∧
            ∀ i ∈ o.members, u.entry i = .free) ∧
        (o.idle + 1 < s.config.idleLimit → exec (.idleExpiry c) s = .next s))) ∧
    ((s.ctx c).isOpen = false →
      (∀ reason, abortCtx c reason s = s) ∧ (s.inReset = false → exec (.idleExpiry c) s = .next s))

/-- ABORT_BUNDLES aborts every OPEN context with reason MAINT, frees their members and leaves every other context; the
last result is ACCEPTED in every mode. -/
def Obligations.AbortBundlesAbortsEveryOpenContext : Prop :=
  ∀ s : State, s.inReset = false → ConfigLegal s → PressureAgrees s → ModeAgrees s →
    ∃ t, exec .abortBundles s = .next (written t 0x0020 .accepted) ∧
      (∀ c o, s.ctx c = .opened o → t.ctx c = .aborted o.port o.lane o.rank .maint) ∧
      (∀ c, (s.ctx c).isOpen = false → t.ctx c = s.ctx c) ∧
      (∀ p i, MemberOf s p i → t.entry i = .free) ∧
      (∀ i, (∀ p, ¬ MemberOf s p i) → t.entry i = s.entry i) ∧
      t.pressure = pressureAt s (occupancy t) ∧ ModeFollows s t ∧
      t = { s with entries := t.entries, contexts := t.contexts, pressure := t.pressure, mode := t.mode,
                   modeEvent := t.modeEvent }

/-- B_OPEN: the rows of R65 in their order; the opened context is the lowest FREE one, with the rank of R64. -/
def Obligations.BOpenTakesTheFirstRow : Prop :=
  ∀ (s : State) (p : Port) (tag : ReqTag) (l : Lane), Offers s p tag (.bOpen l) →
    (s.mode = .pass → exec .bOpen s = .next (answered s p tag (.refused .mode))) ∧
    (s.mode = .quiescing ∨ s.mode = .quiesced → exec .bOpen s = .next (answered s p tag (.retry .quiesce))) ∧
    (s.mode = .run →
      (∀ c, (s.ctx c).laneOf? = some (p, l) → exec .bOpen s = .next (answered s p tag (.refused .laneBusy))) ∧
      ((∀ c, (s.ctx c).laneOf? ≠ some (p, l)) →
        ((∀ c, s.ctx c ≠ .free) → exec .bOpen s = .next (answered s p tag (.retry .noContext))) ∧
        ∀ c rank, FirstAt s.contexts (fun x => x = .free) c →
          (rank = .first ↔ ∀ d, (s.ctx d).ownedBy p = false) →
          exec .bOpen s =
            .next { answered s p tag .done with
              contexts := s.contexts.set c
                (.opened { port := p, lane := l, rank := rank, members := [], idle := 0 }) }))

/-- B_CLOSE: an OPEN context commits its members in one event, each the youngest of its line chain, together one run at the
tail of the port's queue, blocked by the slots that cover their lines, and is freed; an ABORTED one is freed and its reason
answered; without a context the close is refused. -/
def Obligations.BCloseCommitsTheMembers : Prop :=
  ∀ (s : State) (p : Port) (tag : ReqTag) (l : Lane), Offers s p tag (.bClose l) →
    ((∀ c, (s.ctx c).laneOf? ≠ some (p, l)) →
      exec .bClose s = .next (answered s p tag (.refused .noBundle))) ∧
    (∀ c rank reason, LanesAndRanks s → s.ctx c = .aborted p l rank reason →
      ∃ t, exec .bClose s = .next t ∧ CtxFreed s t c p rank ∧
        t = { answered s p tag (.aborted reason) with contexts := t.contexts }) ∧
    (∀ c o, OpenLane s p l c o →
      ∃ t, exec .bClose s = .next t ∧ CtxFreed s t c p o.rank ∧
        (∀ i m, i ∈ o.members → s.entry i = .member m →
          ∃ blockers, blockers.Nodup ∧ (∀ k, k ∈ blockers ↔ ∃ r, Unissued s k r ∧ lineOf r.addr = m.line) ∧
            t.entry i =
              .pending
                { line := m.line, data := m.data, mask := m.mask, cls := .post, port := m.port, replyTag := none,
                  fromBundle := true, age := 0, blockedBy := blockers }) ∧
        (∀ i, i ∉ o.members → t.entry i = s.entry i) ∧
        (∀ l, lineChain t l = lineChain s l ++ o.members.filter fun i => (t.entry i).committedWith fun m => m.line == l) ∧
        (∀ q, orderQueue t q = orderQueue s q ++ if q = p then o.members else []) ∧
        orderedList t = orderedList s ∧
        t = { answered s p tag .done with
                entries := t.entries, contexts := t.contexts, commitOrder := s.commitOrder ++ o.members })

/-- B_CANCEL: an OPEN context releases its members and is freed; an ABORTED one is freed and its reason dropped; without a
context the cancel is refused. -/
def Obligations.BCancelReleasesTheMembers : Prop :=
  ∀ (s : State) (p : Port) (tag : ReqTag) (l : Lane), Offers s p tag (.bCancel l) →
    ((∀ c, (s.ctx c).laneOf? ≠ some (p, l)) →
      exec .bCancel s = .next (answered s p tag (.refused .noBundle))) ∧
    (∀ c rank reason, LanesAndRanks s → s.ctx c = .aborted p l rank reason →
      ∃ t, exec .bCancel s = .next t ∧ CtxFreed s t c p rank ∧
        t = { answered s p tag .done with contexts := t.contexts }) ∧
    (∀ c o, OpenLane s p l c o →
      ∃ t, exec .bCancel s = .next t ∧ CtxFreed s t c p o.rank ∧
        (∀ i, t.entry i = if i ∈ o.members then .free else s.entry i) ∧
        t.pressure = pressureAt s (occupancy t) ∧ ModeFollows s t ∧
        t = { answered s p tag .done with
                entries := t.entries, contexts := t.contexts, pressure := t.pressure, mode := t.mode,
                modeEvent := t.modeEvent })

/-! ## Fences -/

/-- FENCE_PORT and FENCE_ALL take the first row of R87 that holds. An accepted fence captures the committed entries of its
port, or of all; a FENCE_PORT consumes the port fault flag; an empty set is answered at once. The order of acceptance is
kept by a counter of the model's, which every accepted fence advances, one answered at once too (log 8). -/
def Obligations.FenceTakesTheFirstRow : Prop :=
  ∀ (k : FenceKind) (s : State) (p : Port) (tag : ReqTag), Offers s p tag (fenceBody k) →
    (∀ c o, s.ctx c = .opened o → o.port = p →
      exec (fenceRow k) s = .next (answered s p tag (.refused .fenceInBundle))) ∧
    ((∀ c o, s.ctx c = .opened o → o.port ≠ p) →
      ((∀ j, s.fence j ≠ .free) → exec (fenceRow k) s = .next (answered s p tag (.retry .noFence))) ∧
      ∀ j, FirstAt s.fences (fun f => f = .free) j →
        ∃ (w : List EntryIx) (seen : Bool), w.Nodup ∧
          (∀ i, i ∈ w ↔ ∃ c, (s.entry i).committed? = some c ∧ (k = .all ∨ c.port = p)) ∧
          seen = (decide (k = .port) && (s.port p).portFault) ∧
          (w = [] →
            exec (fenceRow k) s =
              .next { answered s p tag (if seen then .fault .postedFault else .done) with
                ports := s.ports.set p
                  { answeredPort s p tag (if seen then .fault .postedFault else .done) with
                    portFault := decide (k = .all) && (s.port p).portFault }
                nextFence := s.nextFence + 1 }) ∧
          (w ≠ [] →
            exec (fenceRow k) s =
              .next { taken s p tag with
                ports := s.ports.set p
                  { takenPort s p tag with portFault := decide (k = .all) && (s.port p).portFault }
                fences := s.fences.set j
                  (.waiting { port := p, tag := tag, accepted := s.nextFence, waitSet := w, faultSeen := seen })
                nextFence := s.nextFence + 1 }))

/-! ## Due-ness, eligibility and issue -/

/-- A PENDING entry is due by its own cause, or while a younger PENDING entry of its port's queue is due by its own;
AGE_REACHED changes no state, since due-ness is held by no flag (log 19). -/
def Obligations.DueByOwnCauseOrPropagation : Prop :=
  ∀ (s : State) (i : EntryIx),
    (isDue s i = true ↔ ∃ c, s.entry i = .pending c ∧
      (OwnCause s i c ∨ ∃ older younger j d, Stands (orderQueue s c.port) i older younger ∧ j ∈ younger ∧
        s.entry j = .pending d ∧ OwnCause s j d)) ∧
    (s.inReset = false → exec (.ageReached i) s = .next s)

/-- An entry is eligible when every condition of R34 holds, and a port's drain candidate is its oldest PENDING entry when
that entry is eligible. -/
def Obligations.DrainCandidateIsTheOldestPendingWhenEligible : Prop :=
  ∀ s : State, EntriesExact s →
    (∀ i, eligible s i = true ↔ ∃ c, s.entry i = .pending c ∧ isDue s i = true ∧
      (∀ older younger, Stands (orderQueue s c.port) i older younger → ∀ j ∈ older, (s.entry j).isIssued = true) ∧
      c.blockedBy = [] ∧
      (c.cls = .ordered → ∀ older younger, Stands (orderedList s) i older younger →
        ∀ j ∈ older, (s.entry j).isIssued = true) ∧
      (∀ older younger, Stands (lineChain s c.line) i older younger →
        ∀ j ∈ older, (s.entry j).isPending = false)) ∧
    (∀ p i, drainCandidate s p = some i ↔ eligible s i = true ∧
      ∃ older younger, Stands (orderQueue s p) i older younger ∧ ∀ j ∈ older, (s.entry j).isPending = false)

/-- The class of an issue: DRAIN where a drain candidate exists and no read candidate does, or where both do and pressure
follows a read or the read run has reached its limit. Without a FREE record or a candidate nothing is issued. -/
def Obligations.ArbiterChoosesTheClass : Prop :=
  ∀ s : State,
    (choosesDrain s = true ↔ (∃ p i, drainCandidate s p = some i) ∧
      ((∀ p, readCandidate s p = none) ∨ (s.pressure = true ∧ s.arbiter.lastClass = .read) ∨
        s.config.readRunLimit ≤ s.arbiter.readRun)) ∧
    (∀ p k, readCandidate s p = some k →
      ∃ r, s.slot k = .ready r ∧ r.port = p ∧ ∀ j q, s.slot j = .ready q → q.port = p → r.seq ≤ q.seq) ∧
    (∀ p, readCandidate s p = none ↔ ∀ k r, s.slot k = .ready r → r.port ≠ p) ∧
    (s.inReset = false →
      ((∀ t, s.access t ≠ .free) ∨ ((∀ p, drainCandidate s p = none) ∧ ∀ p, readCandidate s p = none)) →
      exec .issue s = .next s ∧ offeredAccess s = none)

/-- The scan of the rings grants the first position of the high ring with a candidate, LOW standing for the low group,
within which the low ring decides; and the pointers move as R107 says. -/
def Obligations.ArbiterScansTheRings : Prop :=
  ∀ (low : Table Bool 4) (ptrs : RingPtrs) (has : Port → Bool),
    (scanRings low ptrs has = none ↔ ∀ q, has q = false) ∧
    (∀ p, scanRings low ptrs has = some (p, false) ↔
      has p = true ∧ low.get p = false ∧
        (∀ q, has q = true → low.get q = false → (p.castSucc - ptrs.high).val ≤ (q.castSucc - ptrs.high).val) ∧
        (∀ q, has q = true → low.get q = true → (p.castSucc - ptrs.high).val < ((4 : Fin 5) - ptrs.high).val)) ∧
    (∀ p, scanRings low ptrs has = some (p, true) ↔
      has p = true ∧ low.get p = true ∧
        (∀ q, has q = true → low.get q = true → (p - ptrs.low).val ≤ (q - ptrs.low).val) ∧
        (∀ q, has q = true → low.get q = false → ((4 : Fin 5) - ptrs.high).val < (q.castSucc - ptrs.high).val)) ∧
    (∀ p, movePtrs ptrs (p, false) = { high := p.castSucc + 1, low := ptrs.low }) ∧
    (∀ p, movePtrs ptrs (p, true) = { high := 0, low := p + 1 }) ∧
    State.reset.arbiter.reads = { high := 0, low := 0 } ∧ State.reset.arbiter.drains = { high := 0, low := 0 }

/-- ISSUE of a drain: the granted port's candidate is sent whole under the lowest FREE tag, becomes ISSUED, and leaves
every waits-for set; a WAITING slot whose set it empties becomes READY. -/
def Obligations.IssueDrainsTheCandidate : Prop :=
  ∀ (s : State) (t : AccessTag) (p : Port) (low : Bool) (i : EntryIx) (c : Committed),
    s.inReset = false → FirstAt s.accesses (fun a => a = .free) t → choosesDrain s = true →
    scanRings s.config.portLow s.arbiter.drains (fun q => (drainCandidate s q).isSome) = some (p, low) →
    drainCandidate s p = some i → s.entry i = .pending c →
    offeredAccess s = some (.write t c.line c.mask c.data) ∧
    ∃ u, exec .issue s = .next u ∧
      (∀ k r, s.slot k = .waiting r →
        u.slot k =
          if (r.waitsFor.getD []).filter (fun j => j != i) = [] then
            .ready { r with waitsFor := r.waitsFor.map fun w => w.filter fun j => j != i }
          else .waiting { r with waitsFor := r.waitsFor.map fun w => w.filter fun j => j != i }) ∧
      (∀ k r, s.slot k = .ready r →
        u.slot k = .ready { r with waitsFor := r.waitsFor.map fun w => w.filter fun j => j != i }) ∧
      (∀ k r a o, s.slot k = .issued r a o → u.slot k = .issued r a o) ∧
      (∀ k, s.slot k = .free → u.slot k = .free) ∧
      u = { s with
              entries := s.entries.set i (.issued c t)
              slots := u.slots
              accesses := s.accesses.set t (.outstanding (.write i) 0)
              arbiter :=
                { readRun := 0, lastClass := .drain, reads := s.arbiter.reads,
                  drains := movePtrs s.arbiter.drains (p, low) } }

/-- ISSUE of a read: the granted port's candidate is sent under the lowest FREE tag, becomes ISSUED and not orphaned, and
leaves every blocked-by set. -/
def Obligations.IssueSendsTheReadCandidate : Prop :=
  ∀ (s : State) (t : AccessTag) (p : Port) (low : Bool) (k : SlotIx) (r : ReadRec),
    s.inReset = false → FirstAt s.accesses (fun a => a = .free) t → choosesDrain s = false →
    scanRings s.config.portLow s.arbiter.reads (fun q => (readCandidate s q).isSome) = some (p, low) →
    readCandidate s p = some k → s.slot k = .ready r →
    offeredAccess s = some (.read t r.addr r.len) ∧
    ∃ u, exec .issue s = .next u ∧
      (∀ i, u.entry i = (s.entry i).mapCommitted fun c => { c with blockedBy := c.blockedBy.filter fun j => j != k }) ∧
      u = { s with
              entries := u.entries
              slots := s.slots.set k (.issued r t false)
              accesses := s.accesses.set t (.outstanding (.read k) 0)
              arbiter :=
                { readRun := min (s.arbiter.readRun + 1) 16, lastClass := .read,
                  reads := movePtrs s.arbiter.reads (p, low), drains := s.arbiter.drains } }

/-! ## The end of write accesses -/

/-- The end of a write access, OK or ERROR by a MEMORY_RESPONSE or a timeout at its tick (log 3): the entry leaves its
chain, its queue, the ORDERED list and every wait set, and becomes FREE; a record whose set it empties becomes FREE; a
failed POST or ORDERED entry is recorded, or sets overflow. -/
def Obligations.RetiringEntryLeavesEveryCollection : Prop :=
  ∀ (s : State) (t t' : AccessTag) (e : AccessEnd) (n : Nat) (i : EntryIx) (c : Committed),
    s.inReset = false → s.access t = .outstanding (.write i) n → s.entry i = .issued c t' → WaitSetsLive s →
    ∃ u, endAccess t e s = u ∧
      (∀ data, e = .ok data → exec (.memoryResponse t .ok data) s = .next u) ∧
      (e = .error → ∀ data, exec (.memoryResponse t .error data) s = .next u) ∧
      (∀ j w, s.fence j = .waiting w →
        u.fence j =
          if i ∈ w.waitSet then
            if w.waitSet.filter (fun x => x != i) = [] then .free
            else
              .waiting
                { w with waitSet := w.waitSet.filter fun x => x != i, faultSeen := w.faultSeen || e.failed }
          else .waiting w) ∧
      (∀ j, s.fence j = .free → u.fence j = .free) ∧
      (c.cls = .through ∨ e.failed = false → u.faultList = s.faultList ∧ u.overflow = s.overflow) ∧
      (∀ kind, c.cls ≠ .through →
        (e = .error ∧ kind = .writeError) ∨ (e = .timeout ∧ kind = .writeTimeout) →
        (s.faultList.length < 8 →
          u.overflow = s.overflow ∧
          u.faultList = s.faultList ++
            [{ kind := kind, line := c.line, mask := c.mask, port := c.port, cls := c.cls,
               fromBundle := c.fromBundle, time := s.timeCount }]) ∧
        (8 ≤ s.faultList.length → u.faultList = s.faultList ∧ u.overflow = true)) ∧
      (∀ l, lineChain u l = (lineChain s l).filter fun j => j != i) ∧
      (∀ p, orderQueue u p = (orderQueue s p).filter fun j => j != i) ∧
      orderedList u = (orderedList s).filter (fun j => j != i) ∧
      u.pressure = pressureAt s (occupancy u) ∧ ModeFollows s u ∧
      u = { s with
              ports := u.ports
              entries := s.entries.set i .free
              commitOrder := s.commitOrder.filter fun j => j != i
              fences := u.fences
              accesses := s.accesses.set t (if e = .timeout then .quarantined else .free)
              faultList := u.faultList
              overflow := u.overflow
              pressure := u.pressure
              mode := u.mode
              modeEvent := u.modeEvent }

/-- What a write access's end, by a MEMORY_RESPONSE or by a timeout at its tick (log 3), does to the ports: the
THROUGH entry's own answer first, then the answers of the records it empties, in acceptance order; a failed POST or
ORDERED entry sets its port's fault flag. -/
def Obligations.RetirementAnswersInOrder : Prop :=
  ∀ (s : State) (t t' : AccessTag) (e : AccessEnd) (n : Nat) (i : EntryIx) (c : Committed),
    s.inReset = false → s.access t = .outstanding (.write i) n → s.entry i = .issued c t' → WaitSetsLive s →
    ∃ (u : State) (emptied : List FenceIx) (own : Answer),
      endAccess t e s = u ∧
      (∀ data, e = .ok data → exec (.memoryResponse t .ok data) s = .next u) ∧
      (e = .error → ∀ data, exec (.memoryResponse t .error data) s = .next u) ∧
      emptied.Nodup ∧
      (∀ j, j ∈ emptied ↔
        ∃ w, s.fence j = .waiting w ∧ i ∈ w.waitSet ∧ w.waitSet.filter (fun x => x != i) = []) ∧
      emptied.Pairwise (fun j k => (s.fence j).acceptedOrder ≤ (s.fence k).acceptedOrder) ∧
      (e = .error → own = .fault .memError) ∧ (e = .timeout → own = .fault .memTimeout) ∧
      (e.failed = false → own = .done) ∧
      ∀ p, u.port p =
        { s.port p with
          portFault := (s.port p).portFault || (e.failed && c.cls != .through && c.port == p)
          queue :=
            (s.port p).queue ++
              (if c.cls = .through ∧ c.port = p then
                (c.replyTag.map fun tag => ({ tag := tag, answer := own } : Response)).toList
              else []) ++
              emptied.filterMap fun j =>
                match s.fence j with
                | .free => none
                | .waiting w =>
                  if w.port = p then
                    some { tag := w.tag, answer := if w.faultSeen || e.failed then .fault .postedFault else .done }
                  else none }

/-- A response on a tag that is not OUTSTANDING is stray: it sets the stray flag and frees a QUARANTINED record.
RELEASE_TAGS frees every QUARANTINED record. ACCESS_TIMEOUT of a record that the next tick does not time out changes
nothing (log 1). -/
def Obligations.StrayResponsesAndQuarantine : Prop :=
  ∀ s : State, s.inReset = false →
    (∀ t status data,
      (s.access t = .quarantined →
        exec (.memoryResponse t status data) s = .next { s with accesses := s.accesses.set t .free, stray := true }) ∧
      (s.access t = .free → exec (.memoryResponse t status data) s = .next { s with stray := true })) ∧
    (∃ t, exec .releaseTags s = .next (written t 0x0020 .accepted) ∧
      (∀ a, t.access a = if s.access a = .quarantined then .free else s.access a) ∧
      t = { s with accesses := t.accesses }) ∧
    (∀ t, ¬ TimesOutNext s t → exec (.accessTimeout t) s = .next s)

/-! ## The timebase -/

/-- A tick is one event: every timer advances, and in the same event the bus timeout, the idle expiries and the access
timeouts that this brings are taken, the last in an order that R159 leaves open. ACCESS_TIMEOUT is the tick that times
its record out, that record first (log 3). The count of free values used advances with every choice of an order. -/
def Obligations.TickAdvancesEveryTimer : Prop :=
  ∀ s : State, s.inReset = false →
    ∃ (b : State) (expired : List CtxIx) (v : State),
      advanceTimers s = b ∧
      (∀ i c, s.entry i = .pending c → b.entry i = .pending { c with age := min (c.age + 1) 1023 }) ∧
      (∀ i, (s.entry i).isPending = false → b.entry i = s.entry i) ∧
      (∀ c o, s.ctx c = .opened o → b.ctx c = .opened { o with idle := o.idle + 1 }) ∧
      (∀ c, (s.ctx c).isOpen = false → b.ctx c = s.ctx c) ∧
      (∀ t owner n, s.access t = .outstanding owner n → b.access t = .outstanding owner (n + 1)) ∧
      (∀ t, (s.access t = .free ∨ s.access t = .quarantined) → b.access t = s.access t) ∧
      b = { s with
              entries := b.entries
              contexts := b.contexts
              accesses := b.accesses
              link := { s.link with busTimer := s.link.busTimer.map fun n => n + 1 }
              timeCount := s.timeCount + 1
              divider := 0 } ∧
      expired.Nodup ∧ (∀ c, c ∈ expired ↔ IdlesOutNext s c) ∧
      (BusTimesOutNext s →
        v = expired.foldl (fun u c => abortCtx c .idle u)
          { b with link := { s.link with frame := .idle, busTimer := none } }) ∧
      (¬ BusTimesOutNext s → v = expired.foldl (fun u c => abortCtx c .idle u) b) ∧
      (∃ tags : List AccessTag, tags.Nodup ∧ (∀ t, t ∈ tags ↔ TimesOutNext s t) ∧
        exec .tick s =
          .next { tags.foldl (fun u t => endAccess t .timeout u) v with
            freeCount := s.freeCount + (tags.length - 1) }) ∧
      ∀ t, TimesOutNext s t →
        ∃ tags : List AccessTag, (t :: tags).Nodup ∧ (∀ x, x ∈ t :: tags ↔ TimesOutNext s x) ∧
          exec (.accessTimeout t) s =
            .next { tags.foldl (fun u x => endAccess x .timeout u) (endAccess t .timeout v) with
              freeCount := s.freeCount + (tags.length - 1) }

/-! ## The link -/

/-- START with an address byte, STOP and the SCL edges act on the frame state and the bus timeout timer only. The timer runs
only within a frame (log 11). BUS_TIMEOUT is the tick that brings the timer to 25,000 ticks and resets the link (log 3), and
changes nothing where the next tick does not (log 1). -/
def Obligations.LinkFramesBeginAndEnd : Prop :=
  ∀ s : State, s.inReset = false →
    (∀ b : Byte, acksAddress s b = decide (b.toNat / 2 = 0x3A + s.link.strap.toNat) ∧
      exec (.linkStart b) s =
        .next { s with link := { s.link with
          frame :=
            if b.toNat / 2 = 0x3A + s.link.strap.toNat then
              if b.getLsbD 0 then .readData .atStart else .indexHigh
            else .idle
          busTimer := none } }) ∧
    exec .linkStop s = .next { s with link := { s.link with frame := .idle, busTimer := none } } ∧
    (BusTimesOutNext s →
      exec .busTimeout s = exec .tick s ∧
      ∃ u, exec .busTimeout s = .next u ∧ u.link = { s.link with frame := .idle, busTimer := none }) ∧
    (¬ BusTimesOutNext s → exec .busTimeout s = .next s) ∧
    exec (.sclEdge .rising) s = .next { s with link := { s.link with busTimer := none } } ∧
    (s.link.frame ≠ .idle →
      exec (.sclEdge .falling) s =
        .next { s with link := { s.link with busTimer := some 0 } }) ∧
    (s.link.frame = .idle → exec (.sclEdge .falling) s = .next s)

/-- Index and data bytes: two bytes set the index, high byte first; three data bytes are held; the fourth makes the object
write of the value, first byte least significant, and the index advances. -/
def Obligations.LinkBytesSetIndexAndWriteObjects : Prop :=
  ∀ (s : State) (b : Byte), s.inReset = false →
    (s.link.frame = .indexHigh →
      exec (.linkIndexByte b) s = .next { s with link := { s.link with frame := .indexLow b } }) ∧
    (∀ h, s.link.frame = .indexLow h →
      exec (.linkIndexByte b) s =
        .next { s with link := { s.link with frame := .writeData [], index := h ++ b } }) ∧
    (∀ held, s.link.frame = .writeData held → held.length < 3 →
      exec (.linkDataByte b) s = .next { s with link := { s.link with frame := .writeData (held ++ [b]) } }) ∧
    (∀ b0 b1 b2, s.link.frame = .writeData [b0, b1, b2] →
      ∃ t, exec (.objectWrite s.link.index (b ++ b2 ++ b1 ++ b0)) s = .next t ∧
        exec (.linkDataByte b) s =
          .next { t with link := { t.link with frame := .writeData [], index := s.link.index + 1 } })

/-- A byte of a read frame: the value is taken at an object's first byte, the bytes go out least significant first,
the index advances after the fourth, and a byte not acknowledged ends the sending. The value of each object holds the
fields of R176 at their bits and zero elsewhere; the fault objects are in FaultPopRemovesTheHead, the unassigned in
ObjectWritesByIndex. -/
def Obligations.LinkReadSendsTheObject : Prop :=
  ∀ (s : State) (ack : Bool), s.inReset = false →
    readObject s (objectAt 0x0000) = 0x42165047 ∧ readObject s (objectAt 0x0001) = 0x00000001 ∧
    (∀ v, readObject s (objectAt 0x0010) = v →
      v.extractLsb' 0 2 = (match s.mode with | .pass => 0 | .run => 1 | .quiescing => 2 | .quiesced => 3) ∧
      v.extractLsb' 2 2 = 0 ∧ v.getLsbD 4 = s.pressure ∧ v.getLsbD 5 = s.overflow ∧ v.getLsbD 6 = s.stray ∧
      v.getLsbD 7 = s.modeEvent ∧
      (v.extractLsb' 8 7).toNat = (List.finRange 64).countP (fun i => s.entry i ≠ .free) ∧ v.getLsbD 15 = false ∧
      (v.extractLsb' 16 4).toNat = (List.finRange 8).countP (fun t => s.access t = .quarantined) ∧
      (v.extractLsb' 20 3).toNat = (List.finRange 6).countP (fun c => s.ctx c ≠ .free) ∧ v.getLsbD 23 = false ∧
      (v.extractLsb' 24 4).toNat = (List.finRange 8).countP (fun j => s.fence j ≠ .free) ∧ v.extractLsb' 28 4 = 0) ∧
    (∀ v, readObject s (objectAt 0x0020) = v →
      v.extractLsb' 0 2 =
        (match s.link.lastResult with | .none => 0 | .accepted => 1 | .refusedState => 2 | .refusedValue => 3) ∧
      v.extractLsb' 2 14 = 0 ∧ v.extractLsb' 16 16 = s.link.lastIndex) ∧
    (ConfigLegal s →
      (readObject s (objectAt 0x0100)).toNat = s.config.bundleQuota ∧
      (readObject s (objectAt 0x0101)).toNat = s.config.reserve ∧
      (readObject s (objectAt 0x0102)).toNat = s.config.highMark ∧
      (readObject s (objectAt 0x0103)).toNat = s.config.lowMark ∧
      (readObject s (objectAt 0x0104)).toNat = s.config.ageLimit ∧
      (readObject s (objectAt 0x0105)).toNat = s.config.idleLimit ∧
      (readObject s (objectAt 0x0106)).toNat = s.config.memTimeout ∧
      (readObject s (objectAt 0x0107)).toNat = s.config.readRunLimit ∧
      (readObject s (objectAt 0x0109)).toNat = s.config.tbdiv) ∧
    (∀ v, readObject s (objectAt 0x0108) = v →
      (∀ n : Port, v.getLsbD n.val = s.config.portLow.get n) ∧ v.extractLsb' 4 28 = 0) ∧
    readObject s (objectAt 0x010A) = (match s.config.defaultClass with | .post => 0 | .ordered => 1 | .through => 2) ∧
    (∀ v, readObject s (objectAt 0x010B) = v →
      v.getLsbD 0 = s.config.alertMask.fault ∧ v.getLsbD 1 = s.config.alertMask.violation ∧
      v.getLsbD 2 = s.config.alertMask.stray ∧ v.getLsbD 3 = s.config.alertMask.mode ∧ v.extractLsb' 4 28 = 0) ∧
    (∀ (w : Fin 8) (x : Window) (low size cls : Word), s.windows.get w = x →
      readObject s (objectAt (BitVec.ofNat 16 (0x0200 + 4 * w.val))) = low →
      readObject s (objectAt (BitVec.ofNat 16 (0x0200 + 4 * w.val + 1))) = size →
      readObject s (objectAt (BitVec.ofNat 16 (0x0200 + 4 * w.val + 2))) = cls →
      low = x.base.extractLsb' 0 32 ∧
      (WindowLegal x →
        size.extractLsb' 0 8 = x.base.extractLsb' 32 8 ∧ (size.extractLsb' 8 6).toNat = x.exponent ∧
        size.extractLsb' 14 18 = 0) ∧
      cls.extractLsb' 0 2 = (match x.cls with | .post => 0 | .ordered => 1 | .through => 2) ∧
      cls.extractLsb' 2 6 = 0 ∧ cls.getLsbD 8 = x.enabled ∧ cls.extractLsb' 9 23 = 0) ∧
    readObject s (objectAt 0x0310) = s.timeCount ∧
    (∀ (n : Port) (v : Word), readObject s (objectAt (BitVec.ofNat 16 (0x0400 + n.val))) = v →
      (s.port n).outstanding.Nodup →
      (v.extractLsb' 0 5).toNat = (s.port n).outstanding.length ∧ v.extractLsb' 5 3 = 0 ∧
      v.getLsbD 8 = headWaiting s n ∧ v.getLsbD 9 = (s.port n).violation ∧ v.getLsbD 10 = (s.port n).portFault ∧
      v.getLsbD 11 = (s.port n).held ∧ v.extractLsb' 12 20 = 0) ∧
    (s.link.frame = .readData .atStart →
      byteSent s = some ((readObject s (objectAt s.link.index)).extractLsb' 0 8) ∧
      exec (.linkReadByte ack) s =
        .next { s with link := { s.link with
          frame := .readData (if ack then .sending (readObject s (objectAt s.link.index)) 1 else .ended) } }) ∧
    (∀ v n, s.link.frame = .readData (.sending v n) → 1 ≤ n → n < 3 →
      byteSent s = some (v.extractLsb' (8 * n) 8) ∧
      exec (.linkReadByte ack) s =
        .next { s with link := { s.link with frame := .readData (if ack then .sending v (n + 1) else .ended) } }) ∧
    (∀ v, s.link.frame = .readData (.sending v 3) →
      byteSent s = some (v.extractLsb' 24 8) ∧
      exec (.linkReadByte ack) s =
        .next { s with link := { s.link with
          frame := .readData (if ack then .atStart else .ended), index := s.link.index + 1 } }) ∧
    (s.link.frame = .readData .ended → byteSent s = none ∧ exec (.linkReadByte ack) s = .next s)

/-! ## Mode commands, faults, flags and the alert line -/

/-- ENABLE, QUIESCE, RESUME and DISABLE: the mode in which each is taken, the mode it moves to, and the last result; a
refused one changes nothing else. -/
def Obligations.ModeCommandsMoveTheMode : Prop :=
  ∀ s : State, s.inReset = false →
    (s.mode = .pass → exec .enable s = .next (written { s with mode := .run } 0x0020 .accepted)) ∧
    (s.mode ≠ .pass → exec .enable s = .next (written s 0x0020 .refusedState)) ∧
    (s.mode = .run → occupancy s ≠ 0 →
      exec .quiesce s = .next (written { s with mode := .quiescing } 0x0020 .accepted)) ∧
    (s.mode = .run → occupancy s = 0 →
      exec .quiesce s = .next (written { s with mode := .quiesced, modeEvent := true } 0x0020 .accepted)) ∧
    (s.mode ≠ .run → exec .quiesce s = .next (written s 0x0020 .refusedState)) ∧
    (s.mode = .quiescing ∨ s.mode = .quiesced →
      exec .resume s = .next (written { s with mode := .run } 0x0020 .accepted)) ∧
    (s.mode = .pass ∨ s.mode = .run → exec .resume s = .next (written s 0x0020 .refusedState)) ∧
    (s.mode = .quiesced → (∀ c o, s.ctx c ≠ .opened o) →
      exec .disable s = .next (written { s with mode := .pass } 0x0020 .accepted)) ∧
    (s.mode ≠ .quiesced ∨ (∃ c o, s.ctx c = .opened o) →
      exec .disable s = .next (written s 0x0020 .refusedState))

/-- FAULT_POP removes the head record, or is refused on an empty list; the fault count and fault head objects show the list
with the fields of R176 at their bits, and a write to one of them is not stored. -/
def Obligations.FaultPopRemovesTheHead : Prop :=
  ∀ s : State,
    (s.inReset = false →
      (∀ r rest, s.faultList = r :: rest →
        exec .faultPop s = .next (written { s with faultList := rest } 0x0020 .accepted)) ∧
      (s.faultList = [] → exec .faultPop s = .next (written s 0x0020 .refusedState)) ∧
      (∀ index v, index ∈ [(0x0300 : BitVec 16), 0x0301, 0x0302, 0x0303, 0x0304] →
        exec (.objectWrite index v) s = .next (written s index .refusedValue))) ∧
    readObject s (objectAt 0x0300) = BitVec.ofNat 32 s.faultList.length ∧
    (∀ r rest, s.faultList = r :: rest →
      (∀ v, readObject s (objectAt 0x0301) = v →
        v.extractLsb' 0 2 = (match r.kind with | .writeError => 1 | .writeTimeout => 2) ∧ v.extractLsb' 2 2 = 0 ∧
        (v.extractLsb' 4 2).toNat = r.port.val ∧ v.extractLsb' 6 2 = 0 ∧ v.getLsbD 8 = (r.cls == .ordered) ∧
        v.getLsbD 9 = r.fromBundle ∧ v.extractLsb' 10 6 = 0 ∧ v.extractLsb' 16 8 = r.line.extractLsb' 32 8 ∧
        v.extractLsb' 24 8 = 0) ∧
      readObject s (objectAt 0x0302) = r.line.extractLsb' 0 32 ∧
      readObject s (objectAt 0x0303) = r.mask ∧ readObject s (objectAt 0x0304) = r.time) ∧
    (s.faultList = [] →
      ∀ index, index ∈ [(0x0301 : BitVec 16), 0x0302, 0x0303, 0x0304] → readObject s (objectAt index) = 0)

/-- CLEAR_FLAGS clears every flag of R164 in one event, in every mode, and nothing else but the last result changes. -/
def Obligations.ClearFlagsClearsEveryFlag : Prop :=
  ∀ s : State, s.inReset = false →
    exec .clearFlags s =
      .next (written
        { s with
          ports := Table.ofFn fun n => { s.port n with violation := false, portFault := false }
          overflow := false
          stray := false
          modeEvent := false } 0x0020 .accepted)

/-- ALERT_MASK stores its four enables in any mode, and ALERT_N is driven low exactly while an enabled source holds and
RST_N is not asserted. -/
def Obligations.AlertMaskAndAlertLine : Prop :=
  (∀ (s : State) (v : Word), s.inReset = false →
    exec (.alertMask v) s =
      .next (storedIf (v.toNat < 16) s
        { s with config := { s.config with alertMask :=
          { fault := v.getLsbD 0, violation := v.getLsbD 1, stray := v.getLsbD 2, mode := v.getLsbD 3 } } } 0x010B)) ∧
  State.reset.config.alertMask = { fault := true, violation := true, stray := true, mode := false } ∧
  ∀ s : State, alertDriven s = true ↔ s.inReset = false ∧
    ((s.faultList ≠ [] ∧ s.config.alertMask.fault = true) ∨
      (s.overflow = true ∧ s.config.alertMask.fault = true) ∨
      ((∃ n, (s.port n).violation = true) ∧ s.config.alertMask.violation = true) ∨
      (s.stray = true ∧ s.config.alertMask.stray = true) ∨
      (s.modeEvent = true ∧ s.config.alertMask.mode = true))

/-! ## Configuration and window objects -/

/-- HIGH_MARK and LOW_MARK: stored in any mode when in range with HIGH_MARK above LOW_MARK, and the pressure flag is then
evaluated at once; refused with REFUSED-VALUE otherwise. -/
def Obligations.MarksAreCheckedAndEvaluated : Prop :=
  (∀ (s : State) (v : Word), s.inReset = false →
    exec (.highMark v) s =
      .next (storedIf (8 ≤ v.toNat ∧ v.toNat ≤ 64 ∧ s.config.lowMark < v.toNat) s
        { s with
          config := { s.config with highMark := v.toNat }
          pressure :=
            if v.toNat ≤ occupancy s then true
            else if occupancy s ≤ s.config.lowMark then false
            else s.pressure } 0x0102) ∧
    exec (.lowMark v) s =
      .next (storedIf (v.toNat ≤ 63 ∧ v.toNat < s.config.highMark) s
        { s with
          config := { s.config with lowMark := v.toNat }
          pressure :=
            if s.config.highMark ≤ occupancy s then true
            else if occupancy s ≤ v.toNat then false
            else s.pressure } 0x0103)) ∧
  State.reset.config.highMark = 48 ∧ State.reset.config.lowMark = 32

/-- AGE_LIMIT, IDLE_LIMIT and MEM_TIMEOUT are stored in any mode when in range, and change no timer. TBDIV is stored in
PASS only and starts the divider afresh. -/
def Obligations.TimeLimitsAreCheckedAndStored : Prop :=
  ∀ (s : State) (v : Word), s.inReset = false →
    exec (.ageLimit v) s =
      .next (storedIf (v.toNat ≤ 1023) s { s with config := { s.config with ageLimit := v.toNat } } 0x0104) ∧
    exec (.idleLimit v) s =
      .next (storedIf (1 ≤ v.toNat ∧ v.toNat ≤ 65535) s
        { s with config := { s.config with idleLimit := v.toNat } } 0x0105) ∧
    exec (.memTimeout v) s =
      .next (storedIf (1 ≤ v.toNat ∧ v.toNat ≤ 4095) s
        { s with config := { s.config with memTimeout := v.toNat } } 0x0106) ∧
    (s.mode = .pass →
      exec (.tbdiv v) s =
        .next (storedIf (1 ≤ v.toNat ∧ v.toNat ≤ 1024) s
          { s with config := { s.config with tbdiv := v.toNat }, divider := 0 } 0x0109)) ∧
    (s.mode ≠ .pass → exec (.tbdiv v) s = .next (written s 0x0109 .refusedState))

/-- A window object: refused with REFUSED-STATE outside the states of R152; otherwise checked as R141 says, an enabled
window staying aligned to its size, and stored or refused with REFUSED-VALUE. -/
def Obligations.WindowObjectsStayAligned : Prop :=
  ∀ (s : State) (w : Fin 8) (v : Word), s.inReset = false →
    (¬ Unlocked s → ∀ part,
      exec (.windowObject w part v) s =
        .next (written s (BitVec.ofNat 16 (0x0200 + 4 * w.val + windowPartOffset part)) .refusedState)) ∧
    (Unlocked s →
      (∀ base : Addr, base = (s.windows.get w).base.extractLsb' 32 8 ++ v →
        exec (.windowObject w .baseLow v) s =
          .next (storedIf ((s.windows.get w).enabled = false ∨ base.toNat % 2 ^ (s.windows.get w).exponent = 0) s
            { s with windows := s.windows.set w { s.windows.get w with base := base } }
            (BitVec.ofNat 16 (0x0200 + 4 * w.val)))) ∧
      (∀ (base : Addr) (size : Nat),
        base = v.extractLsb' 0 8 ++ (s.windows.get w).base.extractLsb' 0 32 → size = v.toNat / 256 % 64 →
        exec (.windowObject w .baseHighSize v) s =
          .next (storedIf
            (v.toNat < 16384 ∧ 12 ≤ size ∧ size ≤ 40 ∧
              ((s.windows.get w).enabled = false ∨ base.toNat % 2 ^ size = 0)) s
            { s with windows := s.windows.set w { s.windows.get w with base := base, exponent := size } }
            (BitVec.ofNat 16 (0x0200 + 4 * w.val + 1)))) ∧
      (∀ (cls : WClass) (en : Bool), v = BitVec.ofNat 32 (classCode cls + if en then 256 else 0) →
        exec (.windowObject w .classEnable v) s =
          .next (storedIf (en = false ∨ (s.windows.get w).base.toNat % 2 ^ (s.windows.get w).exponent = 0) s
            { s with windows := s.windows.set w { s.windows.get w with enabled := en, cls := cls } }
            (BitVec.ofNat 16 (0x0200 + 4 * w.val + 2)))) ∧
      ((∀ (cls : WClass) (en : Bool), v ≠ BitVec.ofNat 32 (classCode cls + if en then 256 else 0)) →
        exec (.windowObject w .classEnable v) s =
          .next (written s (BitVec.ofNat 16 (0x0200 + 4 * w.val + 2)) .refusedValue)))

/-- The configuration objects without a row of their own: READ_RUN_LIMIT and PORT_GROUP in any mode, DEFAULT_CLASS, RESERVE
and BUNDLE_QUOTA under the interlock of R152, each with its range. -/
def Obligations.OtherConfigurationObjects : Prop :=
  (∀ (s : State) (v : Word), s.inReset = false →
    exec (.objectWrite 0x0107 v) s =
      .next (storedIf (1 ≤ v.toNat ∧ v.toNat ≤ 16) s
        { s with config := { s.config with readRunLimit := v.toNat } } 0x0107) ∧
    exec (.objectWrite 0x0108 v) s =
      .next (storedIf (v.toNat < 16) s
        { s with config := { s.config with portLow := Table.ofFn fun n => v.getLsbD n.val } } 0x0108) ∧
    (¬ Unlocked s → ∀ index ∈ [(0x0100 : BitVec 16), 0x0101, 0x010A],
      exec (.objectWrite index v) s = .next (written s index .refusedState)) ∧
    (Unlocked s →
      exec (.objectWrite 0x0100 v) s =
        .next (storedIf (1 ≤ v.toNat ∧ v.toNat ≤ 32) s
          { s with config := { s.config with bundleQuota := v.toNat } } 0x0100) ∧
      exec (.objectWrite 0x0101 v) s =
        .next (storedIf (4 ≤ v.toNat ∧ v.toNat ≤ 32) s
          { s with config := { s.config with reserve := v.toNat } } 0x0101) ∧
      (∀ cls, v = BitVec.ofNat 32 (classCode cls) →
        exec (.objectWrite 0x010A v) s =
          .next (written { s with config := { s.config with defaultClass := cls } } 0x010A .accepted)) ∧
      ((∀ cls, v ≠ BitVec.ofNat 32 (classCode cls)) →
        exec (.objectWrite 0x010A v) s = .next (written s 0x010A .refusedValue)))) ∧
  State.reset.config.readRunLimit = 4 ∧ State.reset.config.portLow = Table.replicate 4 false

/-- The index of an object write decides its handling: configuration, window and command objects go to their owners,
read-only and unassigned indexes store nothing and give REFUSED-VALUE, and an unassigned index reads zero. Every byte
of a write frame is acknowledged. -/
def Obligations.ObjectWritesByIndex : Prop :=
  ∀ (s : State) (v : Word), s.inReset = false →
    (∀ index : BitVec 16,
      (objectAt index = .unassigned ↔
        ¬ (index.toNat ≤ 1 ∨ index.toNat = 0x10 ∨ index.toNat = 0x20 ∨
          (0x100 ≤ index.toNat ∧ index.toNat ≤ 0x10B) ∨
          (0x200 ≤ index.toNat ∧ index.toNat < 0x220 ∧ index.toNat % 4 ≠ 3) ∨
          (0x300 ≤ index.toNat ∧ index.toNat ≤ 0x304) ∨ index.toNat = 0x310 ∨
          (0x400 ≤ index.toNat ∧ index.toNat ≤ 0x403))) ∧
      (objectAt index = .unassigned ∨ index.toNat ≤ 1 ∨ index.toNat = 0x10 ∨
          (0x300 ≤ index.toNat ∧ index.toNat ≤ 0x304) ∨ index.toNat = 0x310 ∨
          (0x400 ≤ index.toNat ∧ index.toNat ≤ 0x403) →
        exec (.objectWrite index v) s = .next (written s index .refusedValue)) ∧
      (objectAt index = .unassigned → readObject s (objectAt index) = 0)) ∧
    (s.link.frame = .indexHigh ∨ (∃ h, s.link.frame = .indexLow h) ∨ (∃ held, s.link.frame = .writeData held) →
      acksByte s = true) ∧
    exec (.objectWrite 0x0102 v) s = exec (.highMark v) s ∧ exec (.objectWrite 0x0103 v) s = exec (.lowMark v) s ∧
    exec (.objectWrite 0x0104 v) s = exec (.ageLimit v) s ∧ exec (.objectWrite 0x0105 v) s = exec (.idleLimit v) s ∧
    exec (.objectWrite 0x0106 v) s = exec (.memTimeout v) s ∧ exec (.objectWrite 0x0109 v) s = exec (.tbdiv v) s ∧
    exec (.objectWrite 0x010B v) s = exec (.alertMask v) s ∧
    (∀ w part, exec (.objectWrite (BitVec.ofNat 16 (0x0200 + 4 * w.val + windowPartOffset part)) v) s =
      exec (.windowObject w part v) s) ∧
    exec (.objectWrite 0x0020 0x01) s = exec .enable s ∧ exec (.objectWrite 0x0020 0x02) s = exec .quiesce s ∧
    exec (.objectWrite 0x0020 0x03) s = exec .resume s ∧ exec (.objectWrite 0x0020 0x04) s = exec .disable s ∧
    exec (.objectWrite 0x0020 0x10) s = exec .abortBundles s ∧ exec (.objectWrite 0x0020 0x12) s = exec .faultPop s ∧
    exec (.objectWrite 0x0020 0x13) s = exec .clearFlags s ∧
    exec (.objectWrite 0x0020 0x14) s = exec .releaseTags s ∧
    (∀ n : Port, exec (.objectWrite 0x0020 (BitVec.ofNat 32 (0x11 + 256 * n.val))) s = exec (.portReset n) s) ∧
    (isCommandWord v = false → exec (.objectWrite 0x0020 v) s = .next (written s 0x0020 .refusedValue))

/-! ## Invariants -/

/-- State.reset has every invariant stated below. -/
def Obligations.InvariantsHoldAtReset : Prop :=
  EntriesExact State.reset ∧ IssueOrder State.reset ∧ AccessOwners State.reset ∧ LanesAndRanks State.reset ∧
    MemberBounds State.reset ∧ ConfigLegal State.reset ∧ PressureAgrees State.reset ∧ ModeAgrees State.reset ∧
    HoldsLive State.reset ∧ WaitSetsLive State.reset ∧ TagsAccounted State.reset

/-- Every step keeps the exactness of the commit order and of the member lists. -/
def Obligations.StepKeepsEntriesExact : Prop :=
  ∀ s t : State, EntriesExact s → step s = .next t → EntriesExact t

/-- Every step keeps the issue order: each port queue, the ORDERED list and each line chain stays a run of ISSUED entries
before a run of PENDING ones. -/
def Obligations.StepKeepsIssueOrder : Prop :=
  ∀ s t : State, EntriesExact s → IssueOrder s → step s = .next t → IssueOrder t

/-- Every step keeps an OUTSTANDING record and its owner naming each other. -/
def Obligations.StepKeepsAccessOwners : Prop :=
  ∀ s t : State, EntriesExact s → AccessOwners s → step s = .next t → AccessOwners t

/-- Every step keeps the laws of lanes and ranks. -/
def Obligations.StepKeepsLanesAndRanks : Prop :=
  ∀ s t : State, LanesAndRanks s → step s = .next t → LanesAndRanks t

/-- Every step keeps the bounds of BUNDLE_QUOTA and RESERVE on the members. -/
def Obligations.StepKeepsMemberBounds : Prop :=
  ∀ s t : State, EntriesExact s → MemberBounds s → step s = .next t → MemberBounds t

/-- Every step keeps every configuration item in its range and every window legal, and the pressure flag agreeing with the
occupancy wherever the marks decide it. -/
def Obligations.StepKeepsConfigurationAndPressure : Prop :=
  ∀ s t : State, ConfigLegal s → PressureAgrees s → step s = .next t → ConfigLegal t ∧ PressureAgrees t

/-- Every step keeps the mode agreeing with the buffer and the contexts. -/
def Obligations.StepKeepsModeAgrees : Prop :=
  ∀ s t : State, ModeAgrees s → step s = .next t → ModeAgrees t

/-- Every step keeps blocked-by sets and waits-for sets naming live slots and PENDING entries only, and the wait set of a
WAITING fence record non-empty and made of committed entries. -/
def Obligations.StepKeepsHoldsAndWaitSetsLive : Prop :=
  ∀ s t : State, EntriesExact s → HoldsLive s → WaitSetsLive s → step s = .next t → HoldsLive t ∧ WaitSetsLive t

/-- Every step keeps the account of tags: an outstanding tag has exactly one response queued or to come, any other none. -/
def Obligations.StepKeepsTagsAccounted : Prop :=
  ∀ s t : State, EntriesExact s → TagsAccounted s → step s = .next t → TagsAccounted t

end ObligationStatements
end

