-- ==== Sys2Proof/Laws/Table.lean ====
section
/-! SUPPORT. The laws of the fixed-size table: reading after an update, searching, counting. -/

namespace Sys2Proof.Table

variable {α β : Type} {n : Nat}

/-- Two tables with the same items at every position are equal. -/
theorem ext_get {t u : Table α n} (h : ∀ i, t.get i = u.get i) : t = u := by
  obtain ⟨l, hl⟩ := t
  obtain ⟨m, hm⟩ := u
  have : l = m := List.ext_getElem (by omega) fun k hk _ => h ⟨k, by omega⟩
  subst this
  rfl

@[simp] theorem get_ofFn (f : Fin n → α) (i : Fin n) : (ofFn f).get i = f i := by
  simp [get, ofFn]

@[simp] theorem get_mapIx (f : Fin n → α → β) (t : Table α n) (i : Fin n) : (mapIx f t).get i = f i (t.get i) := by
  simp [mapIx]

@[simp] theorem get_replicate (a : α) (i : Fin n) : (replicate n a).get i = a := by
  simp [get, replicate]

@[simp] theorem get_set_self (t : Table α n) (i : Fin n) (a : α) : (t.set i a).get i = a := by
  simp [get, set]

theorem get_set_ne (t : Table α n) {i j : Fin n} (a : α) (h : j ≠ i) : (t.set i a).get j = t.get j := by
  have : i.val ≠ j.val := fun e => h (Fin.ext e.symm)
  simp [get, set, this]

/-- Reading after one item was replaced. -/
theorem get_set (t : Table α n) (i j : Fin n) (a : α) :
    (t.set i a).get j = if j = i then a else t.get j := by
  by_cases h : j = i
  · subst h; simp
  · rw [get_set_ne t a h, if_neg h]

@[simp] theorem set_set (t : Table α n) (i : Fin n) (a b : α) : (t.set i a).set i b = t.set i b :=
  ext_get fun j => by simp only [get_set]; split <;> rfl

@[simp] theorem set_get (t : Table α n) (i : Fin n) : t.set i (t.get i) = t :=
  ext_get fun j => by rw [get_set]; split <;> simp_all

/-- The items are those at the positions. -/
theorem items_eq (t : Table α n) : t.items = (List.finRange n).map t.get := by
  apply List.ext_getElem
  · simp [t.size]
  · intro k h1 h2
    simp [get]

theorem mem_items {t : Table α n} {a : α} : a ∈ t.items ↔ ∃ i, t.get i = a := by
  simp [items_eq]

@[simp] theorem mem_positions {p : α → Bool} {t : Table α n} {i : Fin n} :
    i ∈ t.positions p ↔ p (t.get i) = true := by
  simp [positions]

theorem nodup_positions (p : α → Bool) (t : Table α n) : (t.positions p).Nodup :=
  (List.nodup_finRange n).filter _

/-- The lowest position passes the test. -/
theorem lowest_some {p : α → Bool} {t : Table α n} {i : Fin n} (h : t.lowest p = some i) : p (t.get i) = true := by
  simpa using List.find?_some h

/-- No position passes the test where there is no lowest. -/
theorem lowest_none {p : α → Bool} {t : Table α n} : t.lowest p = none ↔ ∀ i, p (t.get i) = false := by
  simp [lowest]

/-- No item passes the test exactly when the count is 0. -/
theorem count_eq_zero {p : α → Bool} {t : Table α n} : t.count p = 0 ↔ ∀ i, p (t.get i) = false := by
  rw [count, List.countP_eq_zero]
  constructor
  · intro h i
    simpa using h (t.get i) (mem_items.mpr ⟨i, rfl⟩)
  · intro h a ha
    obtain ⟨i, rfl⟩ := mem_items.mp ha
    simp [h i]

/-- What replacing one item does to a count. -/
theorem count_set (p : α → Bool) (t : Table α n) (i : Fin n) (a : α) :
    (t.set i a).count p + (if p (t.get i) then 1 else 0) = t.count p + (if p a then 1 else 0) := by
  have hi : i.val < t.items.length := by rw [t.size]; exact i.isLt
  have hpos : p (t.items[i.val]) = true → 0 < t.items.countP p := fun h =>
    List.countP_pos_iff.mpr ⟨_, List.getElem_mem hi, h⟩
  simp only [count, set, List.countP_set hi, get]
  by_cases h1 : p t.items[i.val] <;> by_cases h2 : p a <;> simp [h1, h2] <;>
    (have := hpos h1; omega)

/-- Two tables whose items pass a test at the same positions have the same count. -/
theorem count_congr {p : α → Bool} {q : β → Bool} {t : Table α n} {u : Table β n}
    (h : ∀ i, p (t.get i) = q (u.get i)) : t.count p = u.count q := by
  simp only [count, items_eq, List.countP_map]
  congr 1
  funext i
  exact h i

/-- A count is at most another when its items pass the other's test too. -/
theorem count_mono {p : α → Bool} {q : β → Bool} {t : Table α n} {u : Table β n}
    (h : ∀ i, p (t.get i) = true → q (u.get i) = true) : t.count p ≤ u.count q := by
  simp only [count, items_eq, List.countP_map]
  exact List.countP_mono_left fun i _ hi => h i hi

/-- A count is at most the size of the table. -/
theorem count_le (p : α → Bool) (t : Table α n) : t.count p ≤ n := by
  have := List.countP_le_length (p := p) (l := t.items)
  rwa [t.size] at this

end Sys2Proof.Table
end

