-- ==== Sys2Proof/Laws/State.lean ====
section
/-! SUPPORT. The fields of State after each named update, one lemma per field per update, and the record of a table
after a named update of one record. -/

namespace Sys2Proof.Machine.State

/-! ## setPort -/

@[simp] theorem setPort_ports (s : State) (n : Port) (p : PortState) : (s.setPort n p).ports = s.ports.set n p := rfl
@[simp] theorem setPort_intakePtr (s : State) (n : Port) (p : PortState) : (s.setPort n p).intakePtr = s.intakePtr := rfl
@[simp] theorem setPort_windows (s : State) (n : Port) (p : PortState) : (s.setPort n p).windows = s.windows := rfl
@[simp] theorem setPort_entries (s : State) (n : Port) (p : PortState) : (s.setPort n p).entries = s.entries := rfl
@[simp] theorem setPort_commitOrder (s : State) (n : Port) (p : PortState) : (s.setPort n p).commitOrder = s.commitOrder := rfl
@[simp] theorem setPort_pressure (s : State) (n : Port) (p : PortState) : (s.setPort n p).pressure = s.pressure := rfl
@[simp] theorem setPort_slots (s : State) (n : Port) (p : PortState) : (s.setPort n p).slots = s.slots := rfl
@[simp] theorem setPort_contexts (s : State) (n : Port) (p : PortState) : (s.setPort n p).contexts = s.contexts := rfl
@[simp] theorem setPort_fences (s : State) (n : Port) (p : PortState) : (s.setPort n p).fences = s.fences := rfl
@[simp] theorem setPort_nextFence (s : State) (n : Port) (p : PortState) : (s.setPort n p).nextFence = s.nextFence := rfl
@[simp] theorem setPort_accesses (s : State) (n : Port) (p : PortState) : (s.setPort n p).accesses = s.accesses := rfl
@[simp] theorem setPort_arbiter (s : State) (n : Port) (p : PortState) : (s.setPort n p).arbiter = s.arbiter := rfl
@[simp] theorem setPort_faultList (s : State) (n : Port) (p : PortState) : (s.setPort n p).faultList = s.faultList := rfl
@[simp] theorem setPort_overflow (s : State) (n : Port) (p : PortState) : (s.setPort n p).overflow = s.overflow := rfl
@[simp] theorem setPort_stray (s : State) (n : Port) (p : PortState) : (s.setPort n p).stray = s.stray := rfl
@[simp] theorem setPort_modeEvent (s : State) (n : Port) (p : PortState) : (s.setPort n p).modeEvent = s.modeEvent := rfl
@[simp] theorem setPort_mode (s : State) (n : Port) (p : PortState) : (s.setPort n p).mode = s.mode := rfl
@[simp] theorem setPort_config (s : State) (n : Port) (p : PortState) : (s.setPort n p).config = s.config := rfl
@[simp] theorem setPort_divider (s : State) (n : Port) (p : PortState) : (s.setPort n p).divider = s.divider := rfl
@[simp] theorem setPort_timeCount (s : State) (n : Port) (p : PortState) : (s.setPort n p).timeCount = s.timeCount := rfl
@[simp] theorem setPort_link (s : State) (n : Port) (p : PortState) : (s.setPort n p).link = s.link := rfl
@[simp] theorem setPort_inReset (s : State) (n : Port) (p : PortState) : (s.setPort n p).inReset = s.inReset := rfl
@[simp] theorem setPort_freeCount (s : State) (n : Port) (p : PortState) : (s.setPort n p).freeCount = s.freeCount := rfl
@[simp] theorem setPort_pending (s : State) (n : Port) (p : PortState) : (s.setPort n p).pending = s.pending := rfl

/-! ## setEntry -/

@[simp] theorem setEntry_ports (s : State) (i : EntryIx) (e : Entry) : (s.setEntry i e).ports = s.ports := rfl
@[simp] theorem setEntry_intakePtr (s : State) (i : EntryIx) (e : Entry) : (s.setEntry i e).intakePtr = s.intakePtr := rfl
@[simp] theorem setEntry_windows (s : State) (i : EntryIx) (e : Entry) : (s.setEntry i e).windows = s.windows := rfl
@[simp] theorem setEntry_entries (s : State) (i : EntryIx) (e : Entry) : (s.setEntry i e).entries = s.entries.set i e := rfl
@[simp] theorem setEntry_commitOrder (s : State) (i : EntryIx) (e : Entry) : (s.setEntry i e).commitOrder = s.commitOrder := rfl
@[simp] theorem setEntry_pressure (s : State) (i : EntryIx) (e : Entry) : (s.setEntry i e).pressure = s.pressure := rfl
@[simp] theorem setEntry_slots (s : State) (i : EntryIx) (e : Entry) : (s.setEntry i e).slots = s.slots := rfl
@[simp] theorem setEntry_contexts (s : State) (i : EntryIx) (e : Entry) : (s.setEntry i e).contexts = s.contexts := rfl
@[simp] theorem setEntry_fences (s : State) (i : EntryIx) (e : Entry) : (s.setEntry i e).fences = s.fences := rfl
@[simp] theorem setEntry_nextFence (s : State) (i : EntryIx) (e : Entry) : (s.setEntry i e).nextFence = s.nextFence := rfl
@[simp] theorem setEntry_accesses (s : State) (i : EntryIx) (e : Entry) : (s.setEntry i e).accesses = s.accesses := rfl
@[simp] theorem setEntry_arbiter (s : State) (i : EntryIx) (e : Entry) : (s.setEntry i e).arbiter = s.arbiter := rfl
@[simp] theorem setEntry_faultList (s : State) (i : EntryIx) (e : Entry) : (s.setEntry i e).faultList = s.faultList := rfl
@[simp] theorem setEntry_overflow (s : State) (i : EntryIx) (e : Entry) : (s.setEntry i e).overflow = s.overflow := rfl
@[simp] theorem setEntry_stray (s : State) (i : EntryIx) (e : Entry) : (s.setEntry i e).stray = s.stray := rfl
@[simp] theorem setEntry_modeEvent (s : State) (i : EntryIx) (e : Entry) : (s.setEntry i e).modeEvent = s.modeEvent := rfl
@[simp] theorem setEntry_mode (s : State) (i : EntryIx) (e : Entry) : (s.setEntry i e).mode = s.mode := rfl
@[simp] theorem setEntry_config (s : State) (i : EntryIx) (e : Entry) : (s.setEntry i e).config = s.config := rfl
@[simp] theorem setEntry_divider (s : State) (i : EntryIx) (e : Entry) : (s.setEntry i e).divider = s.divider := rfl
@[simp] theorem setEntry_timeCount (s : State) (i : EntryIx) (e : Entry) : (s.setEntry i e).timeCount = s.timeCount := rfl
@[simp] theorem setEntry_link (s : State) (i : EntryIx) (e : Entry) : (s.setEntry i e).link = s.link := rfl
@[simp] theorem setEntry_inReset (s : State) (i : EntryIx) (e : Entry) : (s.setEntry i e).inReset = s.inReset := rfl
@[simp] theorem setEntry_freeCount (s : State) (i : EntryIx) (e : Entry) : (s.setEntry i e).freeCount = s.freeCount := rfl
@[simp] theorem setEntry_pending (s : State) (i : EntryIx) (e : Entry) : (s.setEntry i e).pending = s.pending := rfl

/-! ## setSlot -/

@[simp] theorem setSlot_ports (s : State) (k : SlotIx) (x : Slot) : (s.setSlot k x).ports = s.ports := rfl
@[simp] theorem setSlot_intakePtr (s : State) (k : SlotIx) (x : Slot) : (s.setSlot k x).intakePtr = s.intakePtr := rfl
@[simp] theorem setSlot_windows (s : State) (k : SlotIx) (x : Slot) : (s.setSlot k x).windows = s.windows := rfl
@[simp] theorem setSlot_entries (s : State) (k : SlotIx) (x : Slot) : (s.setSlot k x).entries = s.entries := rfl
@[simp] theorem setSlot_commitOrder (s : State) (k : SlotIx) (x : Slot) : (s.setSlot k x).commitOrder = s.commitOrder := rfl
@[simp] theorem setSlot_pressure (s : State) (k : SlotIx) (x : Slot) : (s.setSlot k x).pressure = s.pressure := rfl
@[simp] theorem setSlot_slots (s : State) (k : SlotIx) (x : Slot) : (s.setSlot k x).slots = s.slots.set k x := rfl
@[simp] theorem setSlot_contexts (s : State) (k : SlotIx) (x : Slot) : (s.setSlot k x).contexts = s.contexts := rfl
@[simp] theorem setSlot_fences (s : State) (k : SlotIx) (x : Slot) : (s.setSlot k x).fences = s.fences := rfl
@[simp] theorem setSlot_nextFence (s : State) (k : SlotIx) (x : Slot) : (s.setSlot k x).nextFence = s.nextFence := rfl
@[simp] theorem setSlot_accesses (s : State) (k : SlotIx) (x : Slot) : (s.setSlot k x).accesses = s.accesses := rfl
@[simp] theorem setSlot_arbiter (s : State) (k : SlotIx) (x : Slot) : (s.setSlot k x).arbiter = s.arbiter := rfl
@[simp] theorem setSlot_faultList (s : State) (k : SlotIx) (x : Slot) : (s.setSlot k x).faultList = s.faultList := rfl
@[simp] theorem setSlot_overflow (s : State) (k : SlotIx) (x : Slot) : (s.setSlot k x).overflow = s.overflow := rfl
@[simp] theorem setSlot_stray (s : State) (k : SlotIx) (x : Slot) : (s.setSlot k x).stray = s.stray := rfl
@[simp] theorem setSlot_modeEvent (s : State) (k : SlotIx) (x : Slot) : (s.setSlot k x).modeEvent = s.modeEvent := rfl
@[simp] theorem setSlot_mode (s : State) (k : SlotIx) (x : Slot) : (s.setSlot k x).mode = s.mode := rfl
@[simp] theorem setSlot_config (s : State) (k : SlotIx) (x : Slot) : (s.setSlot k x).config = s.config := rfl
@[simp] theorem setSlot_divider (s : State) (k : SlotIx) (x : Slot) : (s.setSlot k x).divider = s.divider := rfl
@[simp] theorem setSlot_timeCount (s : State) (k : SlotIx) (x : Slot) : (s.setSlot k x).timeCount = s.timeCount := rfl
@[simp] theorem setSlot_link (s : State) (k : SlotIx) (x : Slot) : (s.setSlot k x).link = s.link := rfl
@[simp] theorem setSlot_inReset (s : State) (k : SlotIx) (x : Slot) : (s.setSlot k x).inReset = s.inReset := rfl
@[simp] theorem setSlot_freeCount (s : State) (k : SlotIx) (x : Slot) : (s.setSlot k x).freeCount = s.freeCount := rfl
@[simp] theorem setSlot_pending (s : State) (k : SlotIx) (x : Slot) : (s.setSlot k x).pending = s.pending := rfl

/-! ## setCtx -/

@[simp] theorem setCtx_ports (s : State) (c : CtxIx) (x : Ctx) : (s.setCtx c x).ports = s.ports := rfl
@[simp] theorem setCtx_intakePtr (s : State) (c : CtxIx) (x : Ctx) : (s.setCtx c x).intakePtr = s.intakePtr := rfl
@[simp] theorem setCtx_windows (s : State) (c : CtxIx) (x : Ctx) : (s.setCtx c x).windows = s.windows := rfl
@[simp] theorem setCtx_entries (s : State) (c : CtxIx) (x : Ctx) : (s.setCtx c x).entries = s.entries := rfl
@[simp] theorem setCtx_commitOrder (s : State) (c : CtxIx) (x : Ctx) : (s.setCtx c x).commitOrder = s.commitOrder := rfl
@[simp] theorem setCtx_pressure (s : State) (c : CtxIx) (x : Ctx) : (s.setCtx c x).pressure = s.pressure := rfl
@[simp] theorem setCtx_slots (s : State) (c : CtxIx) (x : Ctx) : (s.setCtx c x).slots = s.slots := rfl
@[simp] theorem setCtx_contexts (s : State) (c : CtxIx) (x : Ctx) : (s.setCtx c x).contexts = s.contexts.set c x := rfl
@[simp] theorem setCtx_fences (s : State) (c : CtxIx) (x : Ctx) : (s.setCtx c x).fences = s.fences := rfl
@[simp] theorem setCtx_nextFence (s : State) (c : CtxIx) (x : Ctx) : (s.setCtx c x).nextFence = s.nextFence := rfl
@[simp] theorem setCtx_accesses (s : State) (c : CtxIx) (x : Ctx) : (s.setCtx c x).accesses = s.accesses := rfl
@[simp] theorem setCtx_arbiter (s : State) (c : CtxIx) (x : Ctx) : (s.setCtx c x).arbiter = s.arbiter := rfl
@[simp] theorem setCtx_faultList (s : State) (c : CtxIx) (x : Ctx) : (s.setCtx c x).faultList = s.faultList := rfl
@[simp] theorem setCtx_overflow (s : State) (c : CtxIx) (x : Ctx) : (s.setCtx c x).overflow = s.overflow := rfl
@[simp] theorem setCtx_stray (s : State) (c : CtxIx) (x : Ctx) : (s.setCtx c x).stray = s.stray := rfl
@[simp] theorem setCtx_modeEvent (s : State) (c : CtxIx) (x : Ctx) : (s.setCtx c x).modeEvent = s.modeEvent := rfl
@[simp] theorem setCtx_mode (s : State) (c : CtxIx) (x : Ctx) : (s.setCtx c x).mode = s.mode := rfl
@[simp] theorem setCtx_config (s : State) (c : CtxIx) (x : Ctx) : (s.setCtx c x).config = s.config := rfl
@[simp] theorem setCtx_divider (s : State) (c : CtxIx) (x : Ctx) : (s.setCtx c x).divider = s.divider := rfl
@[simp] theorem setCtx_timeCount (s : State) (c : CtxIx) (x : Ctx) : (s.setCtx c x).timeCount = s.timeCount := rfl
@[simp] theorem setCtx_link (s : State) (c : CtxIx) (x : Ctx) : (s.setCtx c x).link = s.link := rfl
@[simp] theorem setCtx_inReset (s : State) (c : CtxIx) (x : Ctx) : (s.setCtx c x).inReset = s.inReset := rfl
@[simp] theorem setCtx_freeCount (s : State) (c : CtxIx) (x : Ctx) : (s.setCtx c x).freeCount = s.freeCount := rfl
@[simp] theorem setCtx_pending (s : State) (c : CtxIx) (x : Ctx) : (s.setCtx c x).pending = s.pending := rfl

/-! ## setFence -/

@[simp] theorem setFence_ports (s : State) (j : FenceIx) (f : FenceRec) : (s.setFence j f).ports = s.ports := rfl
@[simp] theorem setFence_intakePtr (s : State) (j : FenceIx) (f : FenceRec) : (s.setFence j f).intakePtr = s.intakePtr := rfl
@[simp] theorem setFence_windows (s : State) (j : FenceIx) (f : FenceRec) : (s.setFence j f).windows = s.windows := rfl
@[simp] theorem setFence_entries (s : State) (j : FenceIx) (f : FenceRec) : (s.setFence j f).entries = s.entries := rfl
@[simp] theorem setFence_commitOrder (s : State) (j : FenceIx) (f : FenceRec) : (s.setFence j f).commitOrder = s.commitOrder := rfl
@[simp] theorem setFence_pressure (s : State) (j : FenceIx) (f : FenceRec) : (s.setFence j f).pressure = s.pressure := rfl
@[simp] theorem setFence_slots (s : State) (j : FenceIx) (f : FenceRec) : (s.setFence j f).slots = s.slots := rfl
@[simp] theorem setFence_contexts (s : State) (j : FenceIx) (f : FenceRec) : (s.setFence j f).contexts = s.contexts := rfl
@[simp] theorem setFence_fences (s : State) (j : FenceIx) (f : FenceRec) : (s.setFence j f).fences = s.fences.set j f := rfl
@[simp] theorem setFence_nextFence (s : State) (j : FenceIx) (f : FenceRec) : (s.setFence j f).nextFence = s.nextFence := rfl
@[simp] theorem setFence_accesses (s : State) (j : FenceIx) (f : FenceRec) : (s.setFence j f).accesses = s.accesses := rfl
@[simp] theorem setFence_arbiter (s : State) (j : FenceIx) (f : FenceRec) : (s.setFence j f).arbiter = s.arbiter := rfl
@[simp] theorem setFence_faultList (s : State) (j : FenceIx) (f : FenceRec) : (s.setFence j f).faultList = s.faultList := rfl
@[simp] theorem setFence_overflow (s : State) (j : FenceIx) (f : FenceRec) : (s.setFence j f).overflow = s.overflow := rfl
@[simp] theorem setFence_stray (s : State) (j : FenceIx) (f : FenceRec) : (s.setFence j f).stray = s.stray := rfl
@[simp] theorem setFence_modeEvent (s : State) (j : FenceIx) (f : FenceRec) : (s.setFence j f).modeEvent = s.modeEvent := rfl
@[simp] theorem setFence_mode (s : State) (j : FenceIx) (f : FenceRec) : (s.setFence j f).mode = s.mode := rfl
@[simp] theorem setFence_config (s : State) (j : FenceIx) (f : FenceRec) : (s.setFence j f).config = s.config := rfl
@[simp] theorem setFence_divider (s : State) (j : FenceIx) (f : FenceRec) : (s.setFence j f).divider = s.divider := rfl
@[simp] theorem setFence_timeCount (s : State) (j : FenceIx) (f : FenceRec) : (s.setFence j f).timeCount = s.timeCount := rfl
@[simp] theorem setFence_link (s : State) (j : FenceIx) (f : FenceRec) : (s.setFence j f).link = s.link := rfl
@[simp] theorem setFence_inReset (s : State) (j : FenceIx) (f : FenceRec) : (s.setFence j f).inReset = s.inReset := rfl
@[simp] theorem setFence_freeCount (s : State) (j : FenceIx) (f : FenceRec) : (s.setFence j f).freeCount = s.freeCount := rfl
@[simp] theorem setFence_pending (s : State) (j : FenceIx) (f : FenceRec) : (s.setFence j f).pending = s.pending := rfl

/-! ## setAccess -/

@[simp] theorem setAccess_ports (s : State) (t : AccessTag) (a : AccessRec) : (s.setAccess t a).ports = s.ports := rfl
@[simp] theorem setAccess_intakePtr (s : State) (t : AccessTag) (a : AccessRec) : (s.setAccess t a).intakePtr = s.intakePtr := rfl
@[simp] theorem setAccess_windows (s : State) (t : AccessTag) (a : AccessRec) : (s.setAccess t a).windows = s.windows := rfl
@[simp] theorem setAccess_entries (s : State) (t : AccessTag) (a : AccessRec) : (s.setAccess t a).entries = s.entries := rfl
@[simp] theorem setAccess_commitOrder (s : State) (t : AccessTag) (a : AccessRec) : (s.setAccess t a).commitOrder = s.commitOrder := rfl
@[simp] theorem setAccess_pressure (s : State) (t : AccessTag) (a : AccessRec) : (s.setAccess t a).pressure = s.pressure := rfl
@[simp] theorem setAccess_slots (s : State) (t : AccessTag) (a : AccessRec) : (s.setAccess t a).slots = s.slots := rfl
@[simp] theorem setAccess_contexts (s : State) (t : AccessTag) (a : AccessRec) : (s.setAccess t a).contexts = s.contexts := rfl
@[simp] theorem setAccess_fences (s : State) (t : AccessTag) (a : AccessRec) : (s.setAccess t a).fences = s.fences := rfl
@[simp] theorem setAccess_nextFence (s : State) (t : AccessTag) (a : AccessRec) : (s.setAccess t a).nextFence = s.nextFence := rfl
@[simp] theorem setAccess_accesses (s : State) (t : AccessTag) (a : AccessRec) : (s.setAccess t a).accesses = s.accesses.set t a := rfl
@[simp] theorem setAccess_arbiter (s : State) (t : AccessTag) (a : AccessRec) : (s.setAccess t a).arbiter = s.arbiter := rfl
@[simp] theorem setAccess_faultList (s : State) (t : AccessTag) (a : AccessRec) : (s.setAccess t a).faultList = s.faultList := rfl
@[simp] theorem setAccess_overflow (s : State) (t : AccessTag) (a : AccessRec) : (s.setAccess t a).overflow = s.overflow := rfl
@[simp] theorem setAccess_stray (s : State) (t : AccessTag) (a : AccessRec) : (s.setAccess t a).stray = s.stray := rfl
@[simp] theorem setAccess_modeEvent (s : State) (t : AccessTag) (a : AccessRec) : (s.setAccess t a).modeEvent = s.modeEvent := rfl
@[simp] theorem setAccess_mode (s : State) (t : AccessTag) (a : AccessRec) : (s.setAccess t a).mode = s.mode := rfl
@[simp] theorem setAccess_config (s : State) (t : AccessTag) (a : AccessRec) : (s.setAccess t a).config = s.config := rfl
@[simp] theorem setAccess_divider (s : State) (t : AccessTag) (a : AccessRec) : (s.setAccess t a).divider = s.divider := rfl
@[simp] theorem setAccess_timeCount (s : State) (t : AccessTag) (a : AccessRec) : (s.setAccess t a).timeCount = s.timeCount := rfl
@[simp] theorem setAccess_link (s : State) (t : AccessTag) (a : AccessRec) : (s.setAccess t a).link = s.link := rfl
@[simp] theorem setAccess_inReset (s : State) (t : AccessTag) (a : AccessRec) : (s.setAccess t a).inReset = s.inReset := rfl
@[simp] theorem setAccess_freeCount (s : State) (t : AccessTag) (a : AccessRec) : (s.setAccess t a).freeCount = s.freeCount := rfl
@[simp] theorem setAccess_pending (s : State) (t : AccessTag) (a : AccessRec) : (s.setAccess t a).pending = s.pending := rfl

/-! ## setConfig -/

@[simp] theorem setConfig_ports (s : State) (c : ConfigItems) : (s.setConfig c).ports = s.ports := rfl
@[simp] theorem setConfig_intakePtr (s : State) (c : ConfigItems) : (s.setConfig c).intakePtr = s.intakePtr := rfl
@[simp] theorem setConfig_windows (s : State) (c : ConfigItems) : (s.setConfig c).windows = s.windows := rfl
@[simp] theorem setConfig_entries (s : State) (c : ConfigItems) : (s.setConfig c).entries = s.entries := rfl
@[simp] theorem setConfig_commitOrder (s : State) (c : ConfigItems) : (s.setConfig c).commitOrder = s.commitOrder := rfl
@[simp] theorem setConfig_pressure (s : State) (c : ConfigItems) : (s.setConfig c).pressure = s.pressure := rfl
@[simp] theorem setConfig_slots (s : State) (c : ConfigItems) : (s.setConfig c).slots = s.slots := rfl
@[simp] theorem setConfig_contexts (s : State) (c : ConfigItems) : (s.setConfig c).contexts = s.contexts := rfl
@[simp] theorem setConfig_fences (s : State) (c : ConfigItems) : (s.setConfig c).fences = s.fences := rfl
@[simp] theorem setConfig_nextFence (s : State) (c : ConfigItems) : (s.setConfig c).nextFence = s.nextFence := rfl
@[simp] theorem setConfig_accesses (s : State) (c : ConfigItems) : (s.setConfig c).accesses = s.accesses := rfl
@[simp] theorem setConfig_arbiter (s : State) (c : ConfigItems) : (s.setConfig c).arbiter = s.arbiter := rfl
@[simp] theorem setConfig_faultList (s : State) (c : ConfigItems) : (s.setConfig c).faultList = s.faultList := rfl
@[simp] theorem setConfig_overflow (s : State) (c : ConfigItems) : (s.setConfig c).overflow = s.overflow := rfl
@[simp] theorem setConfig_stray (s : State) (c : ConfigItems) : (s.setConfig c).stray = s.stray := rfl
@[simp] theorem setConfig_modeEvent (s : State) (c : ConfigItems) : (s.setConfig c).modeEvent = s.modeEvent := rfl
@[simp] theorem setConfig_mode (s : State) (c : ConfigItems) : (s.setConfig c).mode = s.mode := rfl
@[simp] theorem setConfig_config (s : State) (c : ConfigItems) : (s.setConfig c).config = c := rfl
@[simp] theorem setConfig_divider (s : State) (c : ConfigItems) : (s.setConfig c).divider = s.divider := rfl
@[simp] theorem setConfig_timeCount (s : State) (c : ConfigItems) : (s.setConfig c).timeCount = s.timeCount := rfl
@[simp] theorem setConfig_link (s : State) (c : ConfigItems) : (s.setConfig c).link = s.link := rfl
@[simp] theorem setConfig_inReset (s : State) (c : ConfigItems) : (s.setConfig c).inReset = s.inReset := rfl
@[simp] theorem setConfig_freeCount (s : State) (c : ConfigItems) : (s.setConfig c).freeCount = s.freeCount := rfl
@[simp] theorem setConfig_pending (s : State) (c : ConfigItems) : (s.setConfig c).pending = s.pending := rfl

/-! ## setWindow -/

@[simp] theorem setWindow_ports (s : State) (w : Fin 8) (x : Window) : (s.setWindow w x).ports = s.ports := rfl
@[simp] theorem setWindow_intakePtr (s : State) (w : Fin 8) (x : Window) : (s.setWindow w x).intakePtr = s.intakePtr := rfl
@[simp] theorem setWindow_windows (s : State) (w : Fin 8) (x : Window) : (s.setWindow w x).windows = s.windows.set w x := rfl
@[simp] theorem setWindow_entries (s : State) (w : Fin 8) (x : Window) : (s.setWindow w x).entries = s.entries := rfl
@[simp] theorem setWindow_commitOrder (s : State) (w : Fin 8) (x : Window) : (s.setWindow w x).commitOrder = s.commitOrder := rfl
@[simp] theorem setWindow_pressure (s : State) (w : Fin 8) (x : Window) : (s.setWindow w x).pressure = s.pressure := rfl
@[simp] theorem setWindow_slots (s : State) (w : Fin 8) (x : Window) : (s.setWindow w x).slots = s.slots := rfl
@[simp] theorem setWindow_contexts (s : State) (w : Fin 8) (x : Window) : (s.setWindow w x).contexts = s.contexts := rfl
@[simp] theorem setWindow_fences (s : State) (w : Fin 8) (x : Window) : (s.setWindow w x).fences = s.fences := rfl
@[simp] theorem setWindow_nextFence (s : State) (w : Fin 8) (x : Window) : (s.setWindow w x).nextFence = s.nextFence := rfl
@[simp] theorem setWindow_accesses (s : State) (w : Fin 8) (x : Window) : (s.setWindow w x).accesses = s.accesses := rfl
@[simp] theorem setWindow_arbiter (s : State) (w : Fin 8) (x : Window) : (s.setWindow w x).arbiter = s.arbiter := rfl
@[simp] theorem setWindow_faultList (s : State) (w : Fin 8) (x : Window) : (s.setWindow w x).faultList = s.faultList := rfl
@[simp] theorem setWindow_overflow (s : State) (w : Fin 8) (x : Window) : (s.setWindow w x).overflow = s.overflow := rfl
@[simp] theorem setWindow_stray (s : State) (w : Fin 8) (x : Window) : (s.setWindow w x).stray = s.stray := rfl
@[simp] theorem setWindow_modeEvent (s : State) (w : Fin 8) (x : Window) : (s.setWindow w x).modeEvent = s.modeEvent := rfl
@[simp] theorem setWindow_mode (s : State) (w : Fin 8) (x : Window) : (s.setWindow w x).mode = s.mode := rfl
@[simp] theorem setWindow_config (s : State) (w : Fin 8) (x : Window) : (s.setWindow w x).config = s.config := rfl
@[simp] theorem setWindow_divider (s : State) (w : Fin 8) (x : Window) : (s.setWindow w x).divider = s.divider := rfl
@[simp] theorem setWindow_timeCount (s : State) (w : Fin 8) (x : Window) : (s.setWindow w x).timeCount = s.timeCount := rfl
@[simp] theorem setWindow_link (s : State) (w : Fin 8) (x : Window) : (s.setWindow w x).link = s.link := rfl
@[simp] theorem setWindow_inReset (s : State) (w : Fin 8) (x : Window) : (s.setWindow w x).inReset = s.inReset := rfl
@[simp] theorem setWindow_freeCount (s : State) (w : Fin 8) (x : Window) : (s.setWindow w x).freeCount = s.freeCount := rfl
@[simp] theorem setWindow_pending (s : State) (w : Fin 8) (x : Window) : (s.setWindow w x).pending = s.pending := rfl

/-! ## setMode -/

@[simp] theorem setMode_ports (s : State) (m : Mode) : (s.setMode m).ports = s.ports := rfl
@[simp] theorem setMode_intakePtr (s : State) (m : Mode) : (s.setMode m).intakePtr = s.intakePtr := rfl
@[simp] theorem setMode_windows (s : State) (m : Mode) : (s.setMode m).windows = s.windows := rfl
@[simp] theorem setMode_entries (s : State) (m : Mode) : (s.setMode m).entries = s.entries := rfl
@[simp] theorem setMode_commitOrder (s : State) (m : Mode) : (s.setMode m).commitOrder = s.commitOrder := rfl
@[simp] theorem setMode_pressure (s : State) (m : Mode) : (s.setMode m).pressure = s.pressure := rfl
@[simp] theorem setMode_slots (s : State) (m : Mode) : (s.setMode m).slots = s.slots := rfl
@[simp] theorem setMode_contexts (s : State) (m : Mode) : (s.setMode m).contexts = s.contexts := rfl
@[simp] theorem setMode_fences (s : State) (m : Mode) : (s.setMode m).fences = s.fences := rfl
@[simp] theorem setMode_nextFence (s : State) (m : Mode) : (s.setMode m).nextFence = s.nextFence := rfl
@[simp] theorem setMode_accesses (s : State) (m : Mode) : (s.setMode m).accesses = s.accesses := rfl
@[simp] theorem setMode_arbiter (s : State) (m : Mode) : (s.setMode m).arbiter = s.arbiter := rfl
@[simp] theorem setMode_faultList (s : State) (m : Mode) : (s.setMode m).faultList = s.faultList := rfl
@[simp] theorem setMode_overflow (s : State) (m : Mode) : (s.setMode m).overflow = s.overflow := rfl
@[simp] theorem setMode_stray (s : State) (m : Mode) : (s.setMode m).stray = s.stray := rfl
@[simp] theorem setMode_modeEvent (s : State) (m : Mode) : (s.setMode m).modeEvent = s.modeEvent := rfl
@[simp] theorem setMode_mode (s : State) (m : Mode) : (s.setMode m).mode = m := rfl
@[simp] theorem setMode_config (s : State) (m : Mode) : (s.setMode m).config = s.config := rfl
@[simp] theorem setMode_divider (s : State) (m : Mode) : (s.setMode m).divider = s.divider := rfl
@[simp] theorem setMode_timeCount (s : State) (m : Mode) : (s.setMode m).timeCount = s.timeCount := rfl
@[simp] theorem setMode_link (s : State) (m : Mode) : (s.setMode m).link = s.link := rfl
@[simp] theorem setMode_inReset (s : State) (m : Mode) : (s.setMode m).inReset = s.inReset := rfl
@[simp] theorem setMode_freeCount (s : State) (m : Mode) : (s.setMode m).freeCount = s.freeCount := rfl
@[simp] theorem setMode_pending (s : State) (m : Mode) : (s.setMode m).pending = s.pending := rfl

/-! ## setFrame -/

@[simp] theorem setFrame_ports (s : State) (f : Frame) : (s.setFrame f).ports = s.ports := rfl
@[simp] theorem setFrame_intakePtr (s : State) (f : Frame) : (s.setFrame f).intakePtr = s.intakePtr := rfl
@[simp] theorem setFrame_windows (s : State) (f : Frame) : (s.setFrame f).windows = s.windows := rfl
@[simp] theorem setFrame_entries (s : State) (f : Frame) : (s.setFrame f).entries = s.entries := rfl
@[simp] theorem setFrame_commitOrder (s : State) (f : Frame) : (s.setFrame f).commitOrder = s.commitOrder := rfl
@[simp] theorem setFrame_pressure (s : State) (f : Frame) : (s.setFrame f).pressure = s.pressure := rfl
@[simp] theorem setFrame_slots (s : State) (f : Frame) : (s.setFrame f).slots = s.slots := rfl
@[simp] theorem setFrame_contexts (s : State) (f : Frame) : (s.setFrame f).contexts = s.contexts := rfl
@[simp] theorem setFrame_fences (s : State) (f : Frame) : (s.setFrame f).fences = s.fences := rfl
@[simp] theorem setFrame_nextFence (s : State) (f : Frame) : (s.setFrame f).nextFence = s.nextFence := rfl
@[simp] theorem setFrame_accesses (s : State) (f : Frame) : (s.setFrame f).accesses = s.accesses := rfl
@[simp] theorem setFrame_arbiter (s : State) (f : Frame) : (s.setFrame f).arbiter = s.arbiter := rfl
@[simp] theorem setFrame_faultList (s : State) (f : Frame) : (s.setFrame f).faultList = s.faultList := rfl
@[simp] theorem setFrame_overflow (s : State) (f : Frame) : (s.setFrame f).overflow = s.overflow := rfl
@[simp] theorem setFrame_stray (s : State) (f : Frame) : (s.setFrame f).stray = s.stray := rfl
@[simp] theorem setFrame_modeEvent (s : State) (f : Frame) : (s.setFrame f).modeEvent = s.modeEvent := rfl
@[simp] theorem setFrame_mode (s : State) (f : Frame) : (s.setFrame f).mode = s.mode := rfl
@[simp] theorem setFrame_config (s : State) (f : Frame) : (s.setFrame f).config = s.config := rfl
@[simp] theorem setFrame_divider (s : State) (f : Frame) : (s.setFrame f).divider = s.divider := rfl
@[simp] theorem setFrame_timeCount (s : State) (f : Frame) : (s.setFrame f).timeCount = s.timeCount := rfl
@[simp] theorem setFrame_link (s : State) (f : Frame) : (s.setFrame f).link = { s.link with frame := f } := rfl
@[simp] theorem setFrame_inReset (s : State) (f : Frame) : (s.setFrame f).inReset = s.inReset := rfl
@[simp] theorem setFrame_freeCount (s : State) (f : Frame) : (s.setFrame f).freeCount = s.freeCount := rfl
@[simp] theorem setFrame_pending (s : State) (f : Frame) : (s.setFrame f).pending = s.pending := rfl

end Sys2Proof.Machine.State

namespace Sys2Proof.Machine

/-! ## One record after an update of another -/

theorem port_setPort (s : State) (n m : Port) (p : PortState) :
    (s.setPort n p).port m = if m = n then p else s.port m := Table.get_set _ _ _ _

theorem entry_setEntry (s : State) (i m : EntryIx) (e : Entry) :
    (s.setEntry i e).entry m = if m = i then e else s.entry m := Table.get_set _ _ _ _

theorem slot_setSlot (s : State) (k m : SlotIx) (x : Slot) :
    (s.setSlot k x).slot m = if m = k then x else s.slot m := Table.get_set _ _ _ _

theorem ctx_setCtx (s : State) (c m : CtxIx) (x : Ctx) :
    (s.setCtx c x).ctx m = if m = c then x else s.ctx m := Table.get_set _ _ _ _

theorem fence_setFence (s : State) (j m : FenceIx) (f : FenceRec) :
    (s.setFence j f).fence m = if m = j then f else s.fence m := Table.get_set _ _ _ _

theorem access_setAccess (s : State) (t m : AccessTag) (a : AccessRec) :
    (s.setAccess t a).access m = if m = t then a else s.access m := Table.get_set _ _ _ _

end Sys2Proof.Machine
end

