-- ==== Sys2Proof/Laws/Frames.lean ====
section
/-! SUPPORT. What each shared operation leaves alone, as one conjunction of equations that simp uses field by field. -/

namespace Sys2Proof.Machine

/-- Only entries may change. -/
@[simp] theorem unblock_frame (g : List SlotIx) (s : State) :
    (unblock g s).ports = s.ports ∧
    (unblock g s).intakePtr = s.intakePtr ∧
    (unblock g s).windows = s.windows ∧
    (unblock g s).commitOrder = s.commitOrder ∧
    (unblock g s).pressure = s.pressure ∧
    (unblock g s).slots = s.slots ∧
    (unblock g s).contexts = s.contexts ∧
    (unblock g s).fences = s.fences ∧
    (unblock g s).nextFence = s.nextFence ∧
    (unblock g s).accesses = s.accesses ∧
    (unblock g s).arbiter = s.arbiter ∧
    (unblock g s).faultList = s.faultList ∧
    (unblock g s).overflow = s.overflow ∧
    (unblock g s).stray = s.stray ∧
    (unblock g s).modeEvent = s.modeEvent ∧
    (unblock g s).mode = s.mode ∧
    (unblock g s).config = s.config ∧
    (unblock g s).divider = s.divider ∧
    (unblock g s).timeCount = s.timeCount ∧
    (unblock g s).link = s.link ∧
    (unblock g s).inReset = s.inReset ∧
    (unblock g s).freeCount = s.freeCount ∧
    (unblock g s).pending = s.pending := by
  simp [unblock]

/-- Only ports may change. -/
@[simp] theorem place_frame (p : Port) (tag : ReqTag) (a : Answer) (s : State) :
    (place p tag a s).intakePtr = s.intakePtr ∧
    (place p tag a s).windows = s.windows ∧
    (place p tag a s).entries = s.entries ∧
    (place p tag a s).commitOrder = s.commitOrder ∧
    (place p tag a s).pressure = s.pressure ∧
    (place p tag a s).slots = s.slots ∧
    (place p tag a s).contexts = s.contexts ∧
    (place p tag a s).fences = s.fences ∧
    (place p tag a s).nextFence = s.nextFence ∧
    (place p tag a s).accesses = s.accesses ∧
    (place p tag a s).arbiter = s.arbiter ∧
    (place p tag a s).faultList = s.faultList ∧
    (place p tag a s).overflow = s.overflow ∧
    (place p tag a s).stray = s.stray ∧
    (place p tag a s).modeEvent = s.modeEvent ∧
    (place p tag a s).mode = s.mode ∧
    (place p tag a s).config = s.config ∧
    (place p tag a s).divider = s.divider ∧
    (place p tag a s).timeCount = s.timeCount ∧
    (place p tag a s).link = s.link ∧
    (place p tag a s).inReset = s.inReset ∧
    (place p tag a s).freeCount = s.freeCount ∧
    (place p tag a s).pending = s.pending := by
  simp [place]

/-- Only pressure may change. -/
@[simp] theorem evalPressure_frame (s : State) :
    (evalPressure s).ports = s.ports ∧
    (evalPressure s).intakePtr = s.intakePtr ∧
    (evalPressure s).windows = s.windows ∧
    (evalPressure s).entries = s.entries ∧
    (evalPressure s).commitOrder = s.commitOrder ∧
    (evalPressure s).slots = s.slots ∧
    (evalPressure s).contexts = s.contexts ∧
    (evalPressure s).fences = s.fences ∧
    (evalPressure s).nextFence = s.nextFence ∧
    (evalPressure s).accesses = s.accesses ∧
    (evalPressure s).arbiter = s.arbiter ∧
    (evalPressure s).faultList = s.faultList ∧
    (evalPressure s).overflow = s.overflow ∧
    (evalPressure s).stray = s.stray ∧
    (evalPressure s).modeEvent = s.modeEvent ∧
    (evalPressure s).mode = s.mode ∧
    (evalPressure s).config = s.config ∧
    (evalPressure s).divider = s.divider ∧
    (evalPressure s).timeCount = s.timeCount ∧
    (evalPressure s).link = s.link ∧
    (evalPressure s).inReset = s.inReset ∧
    (evalPressure s).freeCount = s.freeCount ∧
    (evalPressure s).pending = s.pending := by
  simp [evalPressure]

/-- Only mode, modeEvent may change. -/
@[simp] theorem reachQuiesced_frame (s : State) :
    (reachQuiesced s).ports = s.ports ∧
    (reachQuiesced s).intakePtr = s.intakePtr ∧
    (reachQuiesced s).windows = s.windows ∧
    (reachQuiesced s).entries = s.entries ∧
    (reachQuiesced s).commitOrder = s.commitOrder ∧
    (reachQuiesced s).pressure = s.pressure ∧
    (reachQuiesced s).slots = s.slots ∧
    (reachQuiesced s).contexts = s.contexts ∧
    (reachQuiesced s).fences = s.fences ∧
    (reachQuiesced s).nextFence = s.nextFence ∧
    (reachQuiesced s).accesses = s.accesses ∧
    (reachQuiesced s).arbiter = s.arbiter ∧
    (reachQuiesced s).faultList = s.faultList ∧
    (reachQuiesced s).overflow = s.overflow ∧
    (reachQuiesced s).stray = s.stray ∧
    (reachQuiesced s).config = s.config ∧
    (reachQuiesced s).divider = s.divider ∧
    (reachQuiesced s).timeCount = s.timeCount ∧
    (reachQuiesced s).link = s.link ∧
    (reachQuiesced s).inReset = s.inReset ∧
    (reachQuiesced s).freeCount = s.freeCount ∧
    (reachQuiesced s).pending = s.pending := by
  unfold reachQuiesced; split <;> simp

/-- Only pressure, mode, modeEvent may change. -/
@[simp] theorem afterRelease_frame (s : State) :
    (afterRelease s).ports = s.ports ∧
    (afterRelease s).intakePtr = s.intakePtr ∧
    (afterRelease s).windows = s.windows ∧
    (afterRelease s).entries = s.entries ∧
    (afterRelease s).commitOrder = s.commitOrder ∧
    (afterRelease s).slots = s.slots ∧
    (afterRelease s).contexts = s.contexts ∧
    (afterRelease s).fences = s.fences ∧
    (afterRelease s).nextFence = s.nextFence ∧
    (afterRelease s).accesses = s.accesses ∧
    (afterRelease s).arbiter = s.arbiter ∧
    (afterRelease s).faultList = s.faultList ∧
    (afterRelease s).overflow = s.overflow ∧
    (afterRelease s).stray = s.stray ∧
    (afterRelease s).config = s.config ∧
    (afterRelease s).divider = s.divider ∧
    (afterRelease s).timeCount = s.timeCount ∧
    (afterRelease s).link = s.link ∧
    (afterRelease s).inReset = s.inReset ∧
    (afterRelease s).freeCount = s.freeCount ∧
    (afterRelease s).pending = s.pending := by
  simp [afterRelease]

/-- Only ports may change. -/
@[simp] theorem setPortFault_frame (p : Port) (s : State) :
    (setPortFault p s).intakePtr = s.intakePtr ∧
    (setPortFault p s).windows = s.windows ∧
    (setPortFault p s).entries = s.entries ∧
    (setPortFault p s).commitOrder = s.commitOrder ∧
    (setPortFault p s).pressure = s.pressure ∧
    (setPortFault p s).slots = s.slots ∧
    (setPortFault p s).contexts = s.contexts ∧
    (setPortFault p s).fences = s.fences ∧
    (setPortFault p s).nextFence = s.nextFence ∧
    (setPortFault p s).accesses = s.accesses ∧
    (setPortFault p s).arbiter = s.arbiter ∧
    (setPortFault p s).faultList = s.faultList ∧
    (setPortFault p s).overflow = s.overflow ∧
    (setPortFault p s).stray = s.stray ∧
    (setPortFault p s).modeEvent = s.modeEvent ∧
    (setPortFault p s).mode = s.mode ∧
    (setPortFault p s).config = s.config ∧
    (setPortFault p s).divider = s.divider ∧
    (setPortFault p s).timeCount = s.timeCount ∧
    (setPortFault p s).link = s.link ∧
    (setPortFault p s).inReset = s.inReset ∧
    (setPortFault p s).freeCount = s.freeCount ∧
    (setPortFault p s).pending = s.pending := by
  simp [setPortFault]

/-- Only faultList, overflow may change. -/
@[simp] theorem recordFault_frame (r : FaultRecord) (s : State) :
    (recordFault r s).ports = s.ports ∧
    (recordFault r s).intakePtr = s.intakePtr ∧
    (recordFault r s).windows = s.windows ∧
    (recordFault r s).entries = s.entries ∧
    (recordFault r s).commitOrder = s.commitOrder ∧
    (recordFault r s).pressure = s.pressure ∧
    (recordFault r s).slots = s.slots ∧
    (recordFault r s).contexts = s.contexts ∧
    (recordFault r s).fences = s.fences ∧
    (recordFault r s).nextFence = s.nextFence ∧
    (recordFault r s).accesses = s.accesses ∧
    (recordFault r s).arbiter = s.arbiter ∧
    (recordFault r s).stray = s.stray ∧
    (recordFault r s).modeEvent = s.modeEvent ∧
    (recordFault r s).mode = s.mode ∧
    (recordFault r s).config = s.config ∧
    (recordFault r s).divider = s.divider ∧
    (recordFault r s).timeCount = s.timeCount ∧
    (recordFault r s).link = s.link ∧
    (recordFault r s).inReset = s.inReset ∧
    (recordFault r s).freeCount = s.freeCount ∧
    (recordFault r s).pending = s.pending := by
  unfold recordFault; split <;> simp

/-- Only ports, overflow, stray, modeEvent may change. -/
@[simp] theorem clearAllFlags_frame (s : State) :
    (clearAllFlags s).intakePtr = s.intakePtr ∧
    (clearAllFlags s).windows = s.windows ∧
    (clearAllFlags s).entries = s.entries ∧
    (clearAllFlags s).commitOrder = s.commitOrder ∧
    (clearAllFlags s).pressure = s.pressure ∧
    (clearAllFlags s).slots = s.slots ∧
    (clearAllFlags s).contexts = s.contexts ∧
    (clearAllFlags s).fences = s.fences ∧
    (clearAllFlags s).nextFence = s.nextFence ∧
    (clearAllFlags s).accesses = s.accesses ∧
    (clearAllFlags s).arbiter = s.arbiter ∧
    (clearAllFlags s).faultList = s.faultList ∧
    (clearAllFlags s).mode = s.mode ∧
    (clearAllFlags s).config = s.config ∧
    (clearAllFlags s).divider = s.divider ∧
    (clearAllFlags s).timeCount = s.timeCount ∧
    (clearAllFlags s).link = s.link ∧
    (clearAllFlags s).inReset = s.inReset ∧
    (clearAllFlags s).freeCount = s.freeCount ∧
    (clearAllFlags s).pending = s.pending := by
  simp [clearAllFlags]

/-- Only contexts may change. -/
@[simp] theorem freeCtx_frame (c : CtxIx) (s : State) :
    (freeCtx c s).ports = s.ports ∧
    (freeCtx c s).intakePtr = s.intakePtr ∧
    (freeCtx c s).windows = s.windows ∧
    (freeCtx c s).entries = s.entries ∧
    (freeCtx c s).commitOrder = s.commitOrder ∧
    (freeCtx c s).pressure = s.pressure ∧
    (freeCtx c s).slots = s.slots ∧
    (freeCtx c s).fences = s.fences ∧
    (freeCtx c s).nextFence = s.nextFence ∧
    (freeCtx c s).accesses = s.accesses ∧
    (freeCtx c s).arbiter = s.arbiter ∧
    (freeCtx c s).faultList = s.faultList ∧
    (freeCtx c s).overflow = s.overflow ∧
    (freeCtx c s).stray = s.stray ∧
    (freeCtx c s).modeEvent = s.modeEvent ∧
    (freeCtx c s).mode = s.mode ∧
    (freeCtx c s).config = s.config ∧
    (freeCtx c s).divider = s.divider ∧
    (freeCtx c s).timeCount = s.timeCount ∧
    (freeCtx c s).link = s.link ∧
    (freeCtx c s).inReset = s.inReset ∧
    (freeCtx c s).freeCount = s.freeCount ∧
    (freeCtx c s).pending = s.pending := by
  unfold freeCtx; split <;> simp

/-- Only entries may change. -/
@[simp] theorem releaseEntries_frame (l : List EntryIx) (s : State) :
    (releaseEntries l s).ports = s.ports ∧
    (releaseEntries l s).intakePtr = s.intakePtr ∧
    (releaseEntries l s).windows = s.windows ∧
    (releaseEntries l s).commitOrder = s.commitOrder ∧
    (releaseEntries l s).pressure = s.pressure ∧
    (releaseEntries l s).slots = s.slots ∧
    (releaseEntries l s).contexts = s.contexts ∧
    (releaseEntries l s).fences = s.fences ∧
    (releaseEntries l s).nextFence = s.nextFence ∧
    (releaseEntries l s).accesses = s.accesses ∧
    (releaseEntries l s).arbiter = s.arbiter ∧
    (releaseEntries l s).faultList = s.faultList ∧
    (releaseEntries l s).overflow = s.overflow ∧
    (releaseEntries l s).stray = s.stray ∧
    (releaseEntries l s).modeEvent = s.modeEvent ∧
    (releaseEntries l s).mode = s.mode ∧
    (releaseEntries l s).config = s.config ∧
    (releaseEntries l s).divider = s.divider ∧
    (releaseEntries l s).timeCount = s.timeCount ∧
    (releaseEntries l s).link = s.link ∧
    (releaseEntries l s).inReset = s.inReset ∧
    (releaseEntries l s).freeCount = s.freeCount ∧
    (releaseEntries l s).pending = s.pending := by
  simp [releaseEntries]

/-- Only entries, contexts, pressure, mode, modeEvent may change. -/
@[simp] theorem abortCtx_frame (c : CtxIx) (r : AbortReason) (s : State) :
    (abortCtx c r s).ports = s.ports ∧
    (abortCtx c r s).intakePtr = s.intakePtr ∧
    (abortCtx c r s).windows = s.windows ∧
    (abortCtx c r s).commitOrder = s.commitOrder ∧
    (abortCtx c r s).slots = s.slots ∧
    (abortCtx c r s).fences = s.fences ∧
    (abortCtx c r s).nextFence = s.nextFence ∧
    (abortCtx c r s).accesses = s.accesses ∧
    (abortCtx c r s).arbiter = s.arbiter ∧
    (abortCtx c r s).faultList = s.faultList ∧
    (abortCtx c r s).overflow = s.overflow ∧
    (abortCtx c r s).stray = s.stray ∧
    (abortCtx c r s).config = s.config ∧
    (abortCtx c r s).divider = s.divider ∧
    (abortCtx c r s).timeCount = s.timeCount ∧
    (abortCtx c r s).link = s.link ∧
    (abortCtx c r s).inReset = s.inReset ∧
    (abortCtx c r s).freeCount = s.freeCount ∧
    (abortCtx c r s).pending = s.pending := by
  unfold abortCtx; split <;> simp

/-- Only entries, commitOrder may change. -/
@[simp] theorem commitMembers_frame (l : List EntryIx) (s : State) :
    (commitMembers l s).ports = s.ports ∧
    (commitMembers l s).intakePtr = s.intakePtr ∧
    (commitMembers l s).windows = s.windows ∧
    (commitMembers l s).pressure = s.pressure ∧
    (commitMembers l s).slots = s.slots ∧
    (commitMembers l s).contexts = s.contexts ∧
    (commitMembers l s).fences = s.fences ∧
    (commitMembers l s).nextFence = s.nextFence ∧
    (commitMembers l s).accesses = s.accesses ∧
    (commitMembers l s).arbiter = s.arbiter ∧
    (commitMembers l s).faultList = s.faultList ∧
    (commitMembers l s).overflow = s.overflow ∧
    (commitMembers l s).stray = s.stray ∧
    (commitMembers l s).modeEvent = s.modeEvent ∧
    (commitMembers l s).mode = s.mode ∧
    (commitMembers l s).config = s.config ∧
    (commitMembers l s).divider = s.divider ∧
    (commitMembers l s).timeCount = s.timeCount ∧
    (commitMembers l s).link = s.link ∧
    (commitMembers l s).inReset = s.inReset ∧
    (commitMembers l s).freeCount = s.freeCount ∧
    (commitMembers l s).pending = s.pending := by
  simp [commitMembers]

/-- Only ports, contexts may change. -/
@[simp] theorem bOpenPresented_frame (s : State) (p : Port) (tag : ReqTag) (l : Lane) :
    (bOpenPresented s p tag l).intakePtr = s.intakePtr ∧
    (bOpenPresented s p tag l).windows = s.windows ∧
    (bOpenPresented s p tag l).entries = s.entries ∧
    (bOpenPresented s p tag l).commitOrder = s.commitOrder ∧
    (bOpenPresented s p tag l).pressure = s.pressure ∧
    (bOpenPresented s p tag l).slots = s.slots ∧
    (bOpenPresented s p tag l).fences = s.fences ∧
    (bOpenPresented s p tag l).nextFence = s.nextFence ∧
    (bOpenPresented s p tag l).accesses = s.accesses ∧
    (bOpenPresented s p tag l).arbiter = s.arbiter ∧
    (bOpenPresented s p tag l).faultList = s.faultList ∧
    (bOpenPresented s p tag l).overflow = s.overflow ∧
    (bOpenPresented s p tag l).stray = s.stray ∧
    (bOpenPresented s p tag l).modeEvent = s.modeEvent ∧
    (bOpenPresented s p tag l).mode = s.mode ∧
    (bOpenPresented s p tag l).config = s.config ∧
    (bOpenPresented s p tag l).divider = s.divider ∧
    (bOpenPresented s p tag l).timeCount = s.timeCount ∧
    (bOpenPresented s p tag l).link = s.link ∧
    (bOpenPresented s p tag l).inReset = s.inReset ∧
    (bOpenPresented s p tag l).freeCount = s.freeCount ∧
    (bOpenPresented s p tag l).pending = s.pending := by
  unfold bOpenPresented; (repeat' split) <;> simp

/-- Only ports, contexts, entries, commitOrder may change. -/
@[simp] theorem bClosePresented_frame (s : State) (p : Port) (tag : ReqTag) (l : Lane) :
    (bClosePresented s p tag l).intakePtr = s.intakePtr ∧
    (bClosePresented s p tag l).windows = s.windows ∧
    (bClosePresented s p tag l).pressure = s.pressure ∧
    (bClosePresented s p tag l).slots = s.slots ∧
    (bClosePresented s p tag l).fences = s.fences ∧
    (bClosePresented s p tag l).nextFence = s.nextFence ∧
    (bClosePresented s p tag l).accesses = s.accesses ∧
    (bClosePresented s p tag l).arbiter = s.arbiter ∧
    (bClosePresented s p tag l).faultList = s.faultList ∧
    (bClosePresented s p tag l).overflow = s.overflow ∧
    (bClosePresented s p tag l).stray = s.stray ∧
    (bClosePresented s p tag l).modeEvent = s.modeEvent ∧
    (bClosePresented s p tag l).mode = s.mode ∧
    (bClosePresented s p tag l).config = s.config ∧
    (bClosePresented s p tag l).divider = s.divider ∧
    (bClosePresented s p tag l).timeCount = s.timeCount ∧
    (bClosePresented s p tag l).link = s.link ∧
    (bClosePresented s p tag l).inReset = s.inReset ∧
    (bClosePresented s p tag l).freeCount = s.freeCount ∧
    (bClosePresented s p tag l).pending = s.pending := by
  unfold bClosePresented; (repeat' split) <;> simp

/-- Only ports, entries, contexts, pressure, mode, modeEvent may change. -/
@[simp] theorem bCancelPresented_frame (s : State) (p : Port) (tag : ReqTag) (l : Lane) :
    (bCancelPresented s p tag l).intakePtr = s.intakePtr ∧
    (bCancelPresented s p tag l).windows = s.windows ∧
    (bCancelPresented s p tag l).commitOrder = s.commitOrder ∧
    (bCancelPresented s p tag l).slots = s.slots ∧
    (bCancelPresented s p tag l).fences = s.fences ∧
    (bCancelPresented s p tag l).nextFence = s.nextFence ∧
    (bCancelPresented s p tag l).accesses = s.accesses ∧
    (bCancelPresented s p tag l).arbiter = s.arbiter ∧
    (bCancelPresented s p tag l).faultList = s.faultList ∧
    (bCancelPresented s p tag l).overflow = s.overflow ∧
    (bCancelPresented s p tag l).stray = s.stray ∧
    (bCancelPresented s p tag l).config = s.config ∧
    (bCancelPresented s p tag l).divider = s.divider ∧
    (bCancelPresented s p tag l).timeCount = s.timeCount ∧
    (bCancelPresented s p tag l).link = s.link ∧
    (bCancelPresented s p tag l).inReset = s.inReset ∧
    (bCancelPresented s p tag l).freeCount = s.freeCount ∧
    (bCancelPresented s p tag l).pending = s.pending := by
  unfold bCancelPresented; (repeat' split) <;> simp

/-- Only entries, contexts may change. -/
@[simp] theorem overlayMember_frame (c : CtxIx) (o : OpenCtx) (i : EntryIx) (m : Member) (k : ByteMask) (d : LineData) (s : State) :
    (overlayMember c o i m k d s).ports = s.ports ∧
    (overlayMember c o i m k d s).intakePtr = s.intakePtr ∧
    (overlayMember c o i m k d s).windows = s.windows ∧
    (overlayMember c o i m k d s).commitOrder = s.commitOrder ∧
    (overlayMember c o i m k d s).pressure = s.pressure ∧
    (overlayMember c o i m k d s).slots = s.slots ∧
    (overlayMember c o i m k d s).fences = s.fences ∧
    (overlayMember c o i m k d s).nextFence = s.nextFence ∧
    (overlayMember c o i m k d s).accesses = s.accesses ∧
    (overlayMember c o i m k d s).arbiter = s.arbiter ∧
    (overlayMember c o i m k d s).faultList = s.faultList ∧
    (overlayMember c o i m k d s).overflow = s.overflow ∧
    (overlayMember c o i m k d s).stray = s.stray ∧
    (overlayMember c o i m k d s).modeEvent = s.modeEvent ∧
    (overlayMember c o i m k d s).mode = s.mode ∧
    (overlayMember c o i m k d s).config = s.config ∧
    (overlayMember c o i m k d s).divider = s.divider ∧
    (overlayMember c o i m k d s).timeCount = s.timeCount ∧
    (overlayMember c o i m k d s).link = s.link ∧
    (overlayMember c o i m k d s).inReset = s.inReset ∧
    (overlayMember c o i m k d s).freeCount = s.freeCount ∧
    (overlayMember c o i m k d s).pending = s.pending := by
  simp [overlayMember]

/-- Only entries, contexts, pressure may change. -/
@[simp] theorem allocateMember_frame (c : CtxIx) (o : OpenCtx) (i : EntryIx) (ln : Addr) (k : ByteMask) (d : LineData) (s : State) :
    (allocateMember c o i ln k d s).ports = s.ports ∧
    (allocateMember c o i ln k d s).intakePtr = s.intakePtr ∧
    (allocateMember c o i ln k d s).windows = s.windows ∧
    (allocateMember c o i ln k d s).commitOrder = s.commitOrder ∧
    (allocateMember c o i ln k d s).slots = s.slots ∧
    (allocateMember c o i ln k d s).fences = s.fences ∧
    (allocateMember c o i ln k d s).nextFence = s.nextFence ∧
    (allocateMember c o i ln k d s).accesses = s.accesses ∧
    (allocateMember c o i ln k d s).arbiter = s.arbiter ∧
    (allocateMember c o i ln k d s).faultList = s.faultList ∧
    (allocateMember c o i ln k d s).overflow = s.overflow ∧
    (allocateMember c o i ln k d s).stray = s.stray ∧
    (allocateMember c o i ln k d s).modeEvent = s.modeEvent ∧
    (allocateMember c o i ln k d s).mode = s.mode ∧
    (allocateMember c o i ln k d s).config = s.config ∧
    (allocateMember c o i ln k d s).divider = s.divider ∧
    (allocateMember c o i ln k d s).timeCount = s.timeCount ∧
    (allocateMember c o i ln k d s).link = s.link ∧
    (allocateMember c o i ln k d s).inReset = s.inReset ∧
    (allocateMember c o i ln k d s).freeCount = s.freeCount ∧
    (allocateMember c o i ln k d s).pending = s.pending := by
  simp [allocateMember]

/-- Only entries, contexts, pressure, mode, modeEvent may change. -/
@[simp] theorem expireIdle_frame (c : CtxIx) (s : State) :
    (expireIdle c s).ports = s.ports ∧
    (expireIdle c s).intakePtr = s.intakePtr ∧
    (expireIdle c s).windows = s.windows ∧
    (expireIdle c s).commitOrder = s.commitOrder ∧
    (expireIdle c s).slots = s.slots ∧
    (expireIdle c s).fences = s.fences ∧
    (expireIdle c s).nextFence = s.nextFence ∧
    (expireIdle c s).accesses = s.accesses ∧
    (expireIdle c s).arbiter = s.arbiter ∧
    (expireIdle c s).faultList = s.faultList ∧
    (expireIdle c s).overflow = s.overflow ∧
    (expireIdle c s).stray = s.stray ∧
    (expireIdle c s).config = s.config ∧
    (expireIdle c s).divider = s.divider ∧
    (expireIdle c s).timeCount = s.timeCount ∧
    (expireIdle c s).link = s.link ∧
    (expireIdle c s).inReset = s.inReset ∧
    (expireIdle c s).freeCount = s.freeCount ∧
    (expireIdle c s).pending = s.pending := by
  unfold expireIdle; split <;> simp

/-- Only entries, contexts, pressure, mode, modeEvent may change. -/
@[simp] theorem abortAllBundles_frame (s : State) :
    (abortAllBundles s).ports = s.ports ∧
    (abortAllBundles s).intakePtr = s.intakePtr ∧
    (abortAllBundles s).windows = s.windows ∧
    (abortAllBundles s).commitOrder = s.commitOrder ∧
    (abortAllBundles s).slots = s.slots ∧
    (abortAllBundles s).fences = s.fences ∧
    (abortAllBundles s).nextFence = s.nextFence ∧
    (abortAllBundles s).accesses = s.accesses ∧
    (abortAllBundles s).arbiter = s.arbiter ∧
    (abortAllBundles s).faultList = s.faultList ∧
    (abortAllBundles s).overflow = s.overflow ∧
    (abortAllBundles s).stray = s.stray ∧
    (abortAllBundles s).config = s.config ∧
    (abortAllBundles s).divider = s.divider ∧
    (abortAllBundles s).timeCount = s.timeCount ∧
    (abortAllBundles s).link = s.link ∧
    (abortAllBundles s).inReset = s.inReset ∧
    (abortAllBundles s).freeCount = s.freeCount ∧
    (abortAllBundles s).pending = s.pending := by
  unfold abortAllBundles
  generalize s.contexts.positions Ctx.isOpen = l
  induction l generalizing s with
  | nil => simp
  | cons c l ih => simpa using ih (abortCtx c .maint s)

/-- Only entries may change. -/
@[simp] theorem combineInto_frame (i : EntryIx) (c : Committed) (k : ByteMask) (d : LineData) (s : State) :
    (combineInto i c k d s).ports = s.ports ∧
    (combineInto i c k d s).intakePtr = s.intakePtr ∧
    (combineInto i c k d s).windows = s.windows ∧
    (combineInto i c k d s).commitOrder = s.commitOrder ∧
    (combineInto i c k d s).pressure = s.pressure ∧
    (combineInto i c k d s).slots = s.slots ∧
    (combineInto i c k d s).contexts = s.contexts ∧
    (combineInto i c k d s).fences = s.fences ∧
    (combineInto i c k d s).nextFence = s.nextFence ∧
    (combineInto i c k d s).accesses = s.accesses ∧
    (combineInto i c k d s).arbiter = s.arbiter ∧
    (combineInto i c k d s).faultList = s.faultList ∧
    (combineInto i c k d s).overflow = s.overflow ∧
    (combineInto i c k d s).stray = s.stray ∧
    (combineInto i c k d s).modeEvent = s.modeEvent ∧
    (combineInto i c k d s).mode = s.mode ∧
    (combineInto i c k d s).config = s.config ∧
    (combineInto i c k d s).divider = s.divider ∧
    (combineInto i c k d s).timeCount = s.timeCount ∧
    (combineInto i c k d s).link = s.link ∧
    (combineInto i c k d s).inReset = s.inReset ∧
    (combineInto i c k d s).freeCount = s.freeCount ∧
    (combineInto i c k d s).pending = s.pending := by
  simp [combineInto]

/-- Only entries, commitOrder, pressure may change. -/
@[simp] theorem allocatePlain_frame (i : EntryIx) (c : Committed) (s : State) :
    (allocatePlain i c s).ports = s.ports ∧
    (allocatePlain i c s).intakePtr = s.intakePtr ∧
    (allocatePlain i c s).windows = s.windows ∧
    (allocatePlain i c s).slots = s.slots ∧
    (allocatePlain i c s).contexts = s.contexts ∧
    (allocatePlain i c s).fences = s.fences ∧
    (allocatePlain i c s).nextFence = s.nextFence ∧
    (allocatePlain i c s).accesses = s.accesses ∧
    (allocatePlain i c s).arbiter = s.arbiter ∧
    (allocatePlain i c s).faultList = s.faultList ∧
    (allocatePlain i c s).overflow = s.overflow ∧
    (allocatePlain i c s).stray = s.stray ∧
    (allocatePlain i c s).modeEvent = s.modeEvent ∧
    (allocatePlain i c s).mode = s.mode ∧
    (allocatePlain i c s).config = s.config ∧
    (allocatePlain i c s).divider = s.divider ∧
    (allocatePlain i c s).timeCount = s.timeCount ∧
    (allocatePlain i c s).link = s.link ∧
    (allocatePlain i c s).inReset = s.inReset ∧
    (allocatePlain i c s).freeCount = s.freeCount ∧
    (allocatePlain i c s).pending = s.pending := by
  simp [allocatePlain]

/-- Only ports may change. -/
@[simp] theorem bumpSeq_frame (p : Port) (s : State) :
    (bumpSeq p s).intakePtr = s.intakePtr ∧
    (bumpSeq p s).windows = s.windows ∧
    (bumpSeq p s).entries = s.entries ∧
    (bumpSeq p s).commitOrder = s.commitOrder ∧
    (bumpSeq p s).pressure = s.pressure ∧
    (bumpSeq p s).slots = s.slots ∧
    (bumpSeq p s).contexts = s.contexts ∧
    (bumpSeq p s).fences = s.fences ∧
    (bumpSeq p s).nextFence = s.nextFence ∧
    (bumpSeq p s).accesses = s.accesses ∧
    (bumpSeq p s).arbiter = s.arbiter ∧
    (bumpSeq p s).faultList = s.faultList ∧
    (bumpSeq p s).overflow = s.overflow ∧
    (bumpSeq p s).stray = s.stray ∧
    (bumpSeq p s).modeEvent = s.modeEvent ∧
    (bumpSeq p s).mode = s.mode ∧
    (bumpSeq p s).config = s.config ∧
    (bumpSeq p s).divider = s.divider ∧
    (bumpSeq p s).timeCount = s.timeCount ∧
    (bumpSeq p s).link = s.link ∧
    (bumpSeq p s).inReset = s.inReset ∧
    (bumpSeq p s).freeCount = s.freeCount ∧
    (bumpSeq p s).pending = s.pending := by
  simp [bumpSeq]

/-- Only slots may change. -/
@[simp] theorem dropWaits_frame (i : EntryIx) (s : State) :
    (dropWaits i s).ports = s.ports ∧
    (dropWaits i s).intakePtr = s.intakePtr ∧
    (dropWaits i s).windows = s.windows ∧
    (dropWaits i s).entries = s.entries ∧
    (dropWaits i s).commitOrder = s.commitOrder ∧
    (dropWaits i s).pressure = s.pressure ∧
    (dropWaits i s).contexts = s.contexts ∧
    (dropWaits i s).fences = s.fences ∧
    (dropWaits i s).nextFence = s.nextFence ∧
    (dropWaits i s).accesses = s.accesses ∧
    (dropWaits i s).arbiter = s.arbiter ∧
    (dropWaits i s).faultList = s.faultList ∧
    (dropWaits i s).overflow = s.overflow ∧
    (dropWaits i s).stray = s.stray ∧
    (dropWaits i s).modeEvent = s.modeEvent ∧
    (dropWaits i s).mode = s.mode ∧
    (dropWaits i s).config = s.config ∧
    (dropWaits i s).divider = s.divider ∧
    (dropWaits i s).timeCount = s.timeCount ∧
    (dropWaits i s).link = s.link ∧
    (dropWaits i s).inReset = s.inReset ∧
    (dropWaits i s).freeCount = s.freeCount ∧
    (dropWaits i s).pending = s.pending := by
  simp [dropWaits]

/-- Only ports, slots may change. -/
@[simp] theorem endRead_frame (k : SlotIx) (e : AccessEnd) (s : State) :
    (endRead k e s).intakePtr = s.intakePtr ∧
    (endRead k e s).windows = s.windows ∧
    (endRead k e s).entries = s.entries ∧
    (endRead k e s).commitOrder = s.commitOrder ∧
    (endRead k e s).pressure = s.pressure ∧
    (endRead k e s).contexts = s.contexts ∧
    (endRead k e s).fences = s.fences ∧
    (endRead k e s).nextFence = s.nextFence ∧
    (endRead k e s).accesses = s.accesses ∧
    (endRead k e s).arbiter = s.arbiter ∧
    (endRead k e s).faultList = s.faultList ∧
    (endRead k e s).overflow = s.overflow ∧
    (endRead k e s).stray = s.stray ∧
    (endRead k e s).modeEvent = s.modeEvent ∧
    (endRead k e s).mode = s.mode ∧
    (endRead k e s).config = s.config ∧
    (endRead k e s).divider = s.divider ∧
    (endRead k e s).timeCount = s.timeCount ∧
    (endRead k e s).link = s.link ∧
    (endRead k e s).inReset = s.inReset ∧
    (endRead k e s).freeCount = s.freeCount ∧
    (endRead k e s).pending = s.pending := by
  unfold endRead; split <;> simp

/-- Only ports may change. -/
@[simp] theorem consumePortFault_frame (k : FenceKind) (p : Port) (s : State) :
    (consumePortFault k p s).intakePtr = s.intakePtr ∧
    (consumePortFault k p s).windows = s.windows ∧
    (consumePortFault k p s).entries = s.entries ∧
    (consumePortFault k p s).commitOrder = s.commitOrder ∧
    (consumePortFault k p s).pressure = s.pressure ∧
    (consumePortFault k p s).slots = s.slots ∧
    (consumePortFault k p s).contexts = s.contexts ∧
    (consumePortFault k p s).fences = s.fences ∧
    (consumePortFault k p s).nextFence = s.nextFence ∧
    (consumePortFault k p s).accesses = s.accesses ∧
    (consumePortFault k p s).arbiter = s.arbiter ∧
    (consumePortFault k p s).faultList = s.faultList ∧
    (consumePortFault k p s).overflow = s.overflow ∧
    (consumePortFault k p s).stray = s.stray ∧
    (consumePortFault k p s).modeEvent = s.modeEvent ∧
    (consumePortFault k p s).mode = s.mode ∧
    (consumePortFault k p s).config = s.config ∧
    (consumePortFault k p s).divider = s.divider ∧
    (consumePortFault k p s).timeCount = s.timeCount ∧
    (consumePortFault k p s).link = s.link ∧
    (consumePortFault k p s).inReset = s.inReset ∧
    (consumePortFault k p s).freeCount = s.freeCount ∧
    (consumePortFault k p s).pending = s.pending := by
  unfold consumePortFault; split <;> simp

/-- Only ports, fences, nextFence may change. -/
@[simp] theorem fenceAccepted_frame (s : State) (k : FenceKind) (p : Port) (tag : ReqTag) (j : FenceIx) :
    (fenceAccepted s k p tag j).intakePtr = s.intakePtr ∧
    (fenceAccepted s k p tag j).windows = s.windows ∧
    (fenceAccepted s k p tag j).entries = s.entries ∧
    (fenceAccepted s k p tag j).commitOrder = s.commitOrder ∧
    (fenceAccepted s k p tag j).pressure = s.pressure ∧
    (fenceAccepted s k p tag j).slots = s.slots ∧
    (fenceAccepted s k p tag j).contexts = s.contexts ∧
    (fenceAccepted s k p tag j).accesses = s.accesses ∧
    (fenceAccepted s k p tag j).arbiter = s.arbiter ∧
    (fenceAccepted s k p tag j).faultList = s.faultList ∧
    (fenceAccepted s k p tag j).overflow = s.overflow ∧
    (fenceAccepted s k p tag j).stray = s.stray ∧
    (fenceAccepted s k p tag j).modeEvent = s.modeEvent ∧
    (fenceAccepted s k p tag j).mode = s.mode ∧
    (fenceAccepted s k p tag j).config = s.config ∧
    (fenceAccepted s k p tag j).divider = s.divider ∧
    (fenceAccepted s k p tag j).timeCount = s.timeCount ∧
    (fenceAccepted s k p tag j).link = s.link ∧
    (fenceAccepted s k p tag j).inReset = s.inReset ∧
    (fenceAccepted s k p tag j).freeCount = s.freeCount ∧
    (fenceAccepted s k p tag j).pending = s.pending := by
  unfold fenceAccepted; dsimp only; (repeat' split) <;> simp

/-- Only ports, fences, nextFence may change. -/
@[simp] theorem fencePresented_frame (s : State) (k : FenceKind) (p : Port) (tag : ReqTag) :
    (fencePresented s k p tag).intakePtr = s.intakePtr ∧
    (fencePresented s k p tag).windows = s.windows ∧
    (fencePresented s k p tag).entries = s.entries ∧
    (fencePresented s k p tag).commitOrder = s.commitOrder ∧
    (fencePresented s k p tag).pressure = s.pressure ∧
    (fencePresented s k p tag).slots = s.slots ∧
    (fencePresented s k p tag).contexts = s.contexts ∧
    (fencePresented s k p tag).accesses = s.accesses ∧
    (fencePresented s k p tag).arbiter = s.arbiter ∧
    (fencePresented s k p tag).faultList = s.faultList ∧
    (fencePresented s k p tag).overflow = s.overflow ∧
    (fencePresented s k p tag).stray = s.stray ∧
    (fencePresented s k p tag).modeEvent = s.modeEvent ∧
    (fencePresented s k p tag).mode = s.mode ∧
    (fencePresented s k p tag).config = s.config ∧
    (fencePresented s k p tag).divider = s.divider ∧
    (fencePresented s k p tag).timeCount = s.timeCount ∧
    (fencePresented s k p tag).link = s.link ∧
    (fencePresented s k p tag).inReset = s.inReset ∧
    (fencePresented s k p tag).freeCount = s.freeCount ∧
    (fencePresented s k p tag).pending = s.pending := by
  unfold fencePresented; (repeat' split) <;> simp

/-- Only fences may change. -/
@[simp] theorem leaveFences_frame (i : EntryIx) (b : Bool) (s : State) :
    (leaveFences i b s).ports = s.ports ∧
    (leaveFences i b s).intakePtr = s.intakePtr ∧
    (leaveFences i b s).windows = s.windows ∧
    (leaveFences i b s).entries = s.entries ∧
    (leaveFences i b s).commitOrder = s.commitOrder ∧
    (leaveFences i b s).pressure = s.pressure ∧
    (leaveFences i b s).slots = s.slots ∧
    (leaveFences i b s).contexts = s.contexts ∧
    (leaveFences i b s).nextFence = s.nextFence ∧
    (leaveFences i b s).accesses = s.accesses ∧
    (leaveFences i b s).arbiter = s.arbiter ∧
    (leaveFences i b s).faultList = s.faultList ∧
    (leaveFences i b s).overflow = s.overflow ∧
    (leaveFences i b s).stray = s.stray ∧
    (leaveFences i b s).modeEvent = s.modeEvent ∧
    (leaveFences i b s).mode = s.mode ∧
    (leaveFences i b s).config = s.config ∧
    (leaveFences i b s).divider = s.divider ∧
    (leaveFences i b s).timeCount = s.timeCount ∧
    (leaveFences i b s).link = s.link ∧
    (leaveFences i b s).inReset = s.inReset ∧
    (leaveFences i b s).freeCount = s.freeCount ∧
    (leaveFences i b s).pending = s.pending := by
  simp [leaveFences]

/-- Only ports, fences may change. -/
@[simp] theorem answerFence_frame (s : State) (j : FenceIx) :
    (answerFence s j).intakePtr = s.intakePtr ∧
    (answerFence s j).windows = s.windows ∧
    (answerFence s j).entries = s.entries ∧
    (answerFence s j).commitOrder = s.commitOrder ∧
    (answerFence s j).pressure = s.pressure ∧
    (answerFence s j).slots = s.slots ∧
    (answerFence s j).contexts = s.contexts ∧
    (answerFence s j).nextFence = s.nextFence ∧
    (answerFence s j).accesses = s.accesses ∧
    (answerFence s j).arbiter = s.arbiter ∧
    (answerFence s j).faultList = s.faultList ∧
    (answerFence s j).overflow = s.overflow ∧
    (answerFence s j).stray = s.stray ∧
    (answerFence s j).modeEvent = s.modeEvent ∧
    (answerFence s j).mode = s.mode ∧
    (answerFence s j).config = s.config ∧
    (answerFence s j).divider = s.divider ∧
    (answerFence s j).timeCount = s.timeCount ∧
    (answerFence s j).link = s.link ∧
    (answerFence s j).inReset = s.inReset ∧
    (answerFence s j).freeCount = s.freeCount ∧
    (answerFence s j).pending = s.pending := by
  unfold answerFence; split <;> simp

/-- Only ports, fences may change. -/
@[simp] theorem answerEmptied_frame (s : State) :
    (answerEmptied s).intakePtr = s.intakePtr ∧
    (answerEmptied s).windows = s.windows ∧
    (answerEmptied s).entries = s.entries ∧
    (answerEmptied s).commitOrder = s.commitOrder ∧
    (answerEmptied s).pressure = s.pressure ∧
    (answerEmptied s).slots = s.slots ∧
    (answerEmptied s).contexts = s.contexts ∧
    (answerEmptied s).nextFence = s.nextFence ∧
    (answerEmptied s).accesses = s.accesses ∧
    (answerEmptied s).arbiter = s.arbiter ∧
    (answerEmptied s).faultList = s.faultList ∧
    (answerEmptied s).overflow = s.overflow ∧
    (answerEmptied s).stray = s.stray ∧
    (answerEmptied s).modeEvent = s.modeEvent ∧
    (answerEmptied s).mode = s.mode ∧
    (answerEmptied s).config = s.config ∧
    (answerEmptied s).divider = s.divider ∧
    (answerEmptied s).timeCount = s.timeCount ∧
    (answerEmptied s).link = s.link ∧
    (answerEmptied s).inReset = s.inReset ∧
    (answerEmptied s).freeCount = s.freeCount ∧
    (answerEmptied s).pending = s.pending := by
  unfold answerEmptied
  generalize emptiedFences s = l
  induction l generalizing s with
  | nil => simp
  | cons j l ih => simpa using ih (answerFence s j)

/-- Only ports, intakePtr may change. -/
@[simp] theorem accepted_frame (p : Port) (tag : ReqTag) (s : State) :
    (accepted p tag s).windows = s.windows ∧
    (accepted p tag s).entries = s.entries ∧
    (accepted p tag s).commitOrder = s.commitOrder ∧
    (accepted p tag s).pressure = s.pressure ∧
    (accepted p tag s).slots = s.slots ∧
    (accepted p tag s).contexts = s.contexts ∧
    (accepted p tag s).fences = s.fences ∧
    (accepted p tag s).nextFence = s.nextFence ∧
    (accepted p tag s).accesses = s.accesses ∧
    (accepted p tag s).arbiter = s.arbiter ∧
    (accepted p tag s).faultList = s.faultList ∧
    (accepted p tag s).overflow = s.overflow ∧
    (accepted p tag s).stray = s.stray ∧
    (accepted p tag s).modeEvent = s.modeEvent ∧
    (accepted p tag s).mode = s.mode ∧
    (accepted p tag s).config = s.config ∧
    (accepted p tag s).divider = s.divider ∧
    (accepted p tag s).timeCount = s.timeCount ∧
    (accepted p tag s).link = s.link ∧
    (accepted p tag s).inReset = s.inReset ∧
    (accepted p tag s).freeCount = s.freeCount ∧
    (accepted p tag s).pending = s.pending := by
  simp [accepted]

/-- Only ports may change. -/
@[simp] theorem discardHead_frame (n : Port) (s : State) :
    (discardHead n s).intakePtr = s.intakePtr ∧
    (discardHead n s).windows = s.windows ∧
    (discardHead n s).entries = s.entries ∧
    (discardHead n s).commitOrder = s.commitOrder ∧
    (discardHead n s).pressure = s.pressure ∧
    (discardHead n s).slots = s.slots ∧
    (discardHead n s).contexts = s.contexts ∧
    (discardHead n s).fences = s.fences ∧
    (discardHead n s).nextFence = s.nextFence ∧
    (discardHead n s).accesses = s.accesses ∧
    (discardHead n s).arbiter = s.arbiter ∧
    (discardHead n s).faultList = s.faultList ∧
    (discardHead n s).overflow = s.overflow ∧
    (discardHead n s).stray = s.stray ∧
    (discardHead n s).modeEvent = s.modeEvent ∧
    (discardHead n s).mode = s.mode ∧
    (discardHead n s).config = s.config ∧
    (discardHead n s).divider = s.divider ∧
    (discardHead n s).timeCount = s.timeCount ∧
    (discardHead n s).link = s.link ∧
    (discardHead n s).inReset = s.inReset ∧
    (discardHead n s).freeCount = s.freeCount ∧
    (discardHead n s).pending = s.pending := by
  simp [discardHead]

/-- Only ports may change. -/
@[simp] theorem headArrives_frame (n : Port) (tag : ReqTag) (b : Option ReqBody) (s : State) :
    (headArrives n tag b s).intakePtr = s.intakePtr ∧
    (headArrives n tag b s).windows = s.windows ∧
    (headArrives n tag b s).entries = s.entries ∧
    (headArrives n tag b s).commitOrder = s.commitOrder ∧
    (headArrives n tag b s).pressure = s.pressure ∧
    (headArrives n tag b s).slots = s.slots ∧
    (headArrives n tag b s).contexts = s.contexts ∧
    (headArrives n tag b s).fences = s.fences ∧
    (headArrives n tag b s).nextFence = s.nextFence ∧
    (headArrives n tag b s).accesses = s.accesses ∧
    (headArrives n tag b s).arbiter = s.arbiter ∧
    (headArrives n tag b s).faultList = s.faultList ∧
    (headArrives n tag b s).overflow = s.overflow ∧
    (headArrives n tag b s).stray = s.stray ∧
    (headArrives n tag b s).modeEvent = s.modeEvent ∧
    (headArrives n tag b s).mode = s.mode ∧
    (headArrives n tag b s).config = s.config ∧
    (headArrives n tag b s).divider = s.divider ∧
    (headArrives n tag b s).timeCount = s.timeCount ∧
    (headArrives n tag b s).link = s.link ∧
    (headArrives n tag b s).inReset = s.inReset ∧
    (headArrives n tag b s).freeCount = s.freeCount ∧
    (headArrives n tag b s).pending = s.pending := by
  unfold headArrives; (repeat' split) <;> simp

/-- Only ports may change. -/
@[simp] theorem deliver_frame (n : Port) (s : State) :
    (deliver n s).intakePtr = s.intakePtr ∧
    (deliver n s).windows = s.windows ∧
    (deliver n s).entries = s.entries ∧
    (deliver n s).commitOrder = s.commitOrder ∧
    (deliver n s).pressure = s.pressure ∧
    (deliver n s).slots = s.slots ∧
    (deliver n s).contexts = s.contexts ∧
    (deliver n s).fences = s.fences ∧
    (deliver n s).nextFence = s.nextFence ∧
    (deliver n s).accesses = s.accesses ∧
    (deliver n s).arbiter = s.arbiter ∧
    (deliver n s).faultList = s.faultList ∧
    (deliver n s).overflow = s.overflow ∧
    (deliver n s).stray = s.stray ∧
    (deliver n s).modeEvent = s.modeEvent ∧
    (deliver n s).mode = s.mode ∧
    (deliver n s).config = s.config ∧
    (deliver n s).divider = s.divider ∧
    (deliver n s).timeCount = s.timeCount ∧
    (deliver n s).link = s.link ∧
    (deliver n s).inReset = s.inReset ∧
    (deliver n s).freeCount = s.freeCount ∧
    (deliver n s).pending = s.pending := by
  unfold deliver; split <;> simp

/-- Only entries, slots may change. -/
@[simp] theorem issueEntry_frame (i : EntryIx) (t : AccessTag) (s : State) :
    (issueEntry i t s).ports = s.ports ∧
    (issueEntry i t s).intakePtr = s.intakePtr ∧
    (issueEntry i t s).windows = s.windows ∧
    (issueEntry i t s).commitOrder = s.commitOrder ∧
    (issueEntry i t s).pressure = s.pressure ∧
    (issueEntry i t s).contexts = s.contexts ∧
    (issueEntry i t s).fences = s.fences ∧
    (issueEntry i t s).nextFence = s.nextFence ∧
    (issueEntry i t s).accesses = s.accesses ∧
    (issueEntry i t s).arbiter = s.arbiter ∧
    (issueEntry i t s).faultList = s.faultList ∧
    (issueEntry i t s).overflow = s.overflow ∧
    (issueEntry i t s).stray = s.stray ∧
    (issueEntry i t s).modeEvent = s.modeEvent ∧
    (issueEntry i t s).mode = s.mode ∧
    (issueEntry i t s).config = s.config ∧
    (issueEntry i t s).divider = s.divider ∧
    (issueEntry i t s).timeCount = s.timeCount ∧
    (issueEntry i t s).link = s.link ∧
    (issueEntry i t s).inReset = s.inReset ∧
    (issueEntry i t s).freeCount = s.freeCount ∧
    (issueEntry i t s).pending = s.pending := by
  unfold issueEntry; split <;> simp

/-- Only entries, slots may change. -/
@[simp] theorem issueSlot_frame (k : SlotIx) (t : AccessTag) (s : State) :
    (issueSlot k t s).ports = s.ports ∧
    (issueSlot k t s).intakePtr = s.intakePtr ∧
    (issueSlot k t s).windows = s.windows ∧
    (issueSlot k t s).commitOrder = s.commitOrder ∧
    (issueSlot k t s).pressure = s.pressure ∧
    (issueSlot k t s).contexts = s.contexts ∧
    (issueSlot k t s).fences = s.fences ∧
    (issueSlot k t s).nextFence = s.nextFence ∧
    (issueSlot k t s).accesses = s.accesses ∧
    (issueSlot k t s).arbiter = s.arbiter ∧
    (issueSlot k t s).faultList = s.faultList ∧
    (issueSlot k t s).overflow = s.overflow ∧
    (issueSlot k t s).stray = s.stray ∧
    (issueSlot k t s).modeEvent = s.modeEvent ∧
    (issueSlot k t s).mode = s.mode ∧
    (issueSlot k t s).config = s.config ∧
    (issueSlot k t s).divider = s.divider ∧
    (issueSlot k t s).timeCount = s.timeCount ∧
    (issueSlot k t s).link = s.link ∧
    (issueSlot k t s).inReset = s.inReset ∧
    (issueSlot k t s).freeCount = s.freeCount ∧
    (issueSlot k t s).pending = s.pending := by
  unfold issueSlot; split <;> simp

/-- Only entries, slots may change. -/
@[simp] theorem issueOwner_frame (o : Owner) (t : AccessTag) (s : State) :
    (issueOwner o t s).ports = s.ports ∧
    (issueOwner o t s).intakePtr = s.intakePtr ∧
    (issueOwner o t s).windows = s.windows ∧
    (issueOwner o t s).commitOrder = s.commitOrder ∧
    (issueOwner o t s).pressure = s.pressure ∧
    (issueOwner o t s).contexts = s.contexts ∧
    (issueOwner o t s).fences = s.fences ∧
    (issueOwner o t s).nextFence = s.nextFence ∧
    (issueOwner o t s).accesses = s.accesses ∧
    (issueOwner o t s).arbiter = s.arbiter ∧
    (issueOwner o t s).faultList = s.faultList ∧
    (issueOwner o t s).overflow = s.overflow ∧
    (issueOwner o t s).stray = s.stray ∧
    (issueOwner o t s).modeEvent = s.modeEvent ∧
    (issueOwner o t s).mode = s.mode ∧
    (issueOwner o t s).config = s.config ∧
    (issueOwner o t s).divider = s.divider ∧
    (issueOwner o t s).timeCount = s.timeCount ∧
    (issueOwner o t s).link = s.link ∧
    (issueOwner o t s).inReset = s.inReset ∧
    (issueOwner o t s).freeCount = s.freeCount ∧
    (issueOwner o t s).pending = s.pending := by
  unfold issueOwner; split <;> simp

/-- Only entries, slots, accesses, arbiter may change. -/
@[simp] theorem issueGrant_frame (g : Grant) (t : AccessTag) (s : State) :
    (issueGrant g t s).ports = s.ports ∧
    (issueGrant g t s).intakePtr = s.intakePtr ∧
    (issueGrant g t s).windows = s.windows ∧
    (issueGrant g t s).commitOrder = s.commitOrder ∧
    (issueGrant g t s).pressure = s.pressure ∧
    (issueGrant g t s).contexts = s.contexts ∧
    (issueGrant g t s).fences = s.fences ∧
    (issueGrant g t s).nextFence = s.nextFence ∧
    (issueGrant g t s).faultList = s.faultList ∧
    (issueGrant g t s).overflow = s.overflow ∧
    (issueGrant g t s).stray = s.stray ∧
    (issueGrant g t s).modeEvent = s.modeEvent ∧
    (issueGrant g t s).mode = s.mode ∧
    (issueGrant g t s).config = s.config ∧
    (issueGrant g t s).divider = s.divider ∧
    (issueGrant g t s).timeCount = s.timeCount ∧
    (issueGrant g t s).link = s.link ∧
    (issueGrant g t s).inReset = s.inReset ∧
    (issueGrant g t s).freeCount = s.freeCount ∧
    (issueGrant g t s).pending = s.pending := by
  simp [issueGrant]

/-- Only entries, slots, accesses, arbiter may change. -/
@[simp] theorem issueNow_frame (s : State) :
    (issueNow s).ports = s.ports ∧
    (issueNow s).intakePtr = s.intakePtr ∧
    (issueNow s).windows = s.windows ∧
    (issueNow s).commitOrder = s.commitOrder ∧
    (issueNow s).pressure = s.pressure ∧
    (issueNow s).contexts = s.contexts ∧
    (issueNow s).fences = s.fences ∧
    (issueNow s).nextFence = s.nextFence ∧
    (issueNow s).faultList = s.faultList ∧
    (issueNow s).overflow = s.overflow ∧
    (issueNow s).stray = s.stray ∧
    (issueNow s).modeEvent = s.modeEvent ∧
    (issueNow s).mode = s.mode ∧
    (issueNow s).config = s.config ∧
    (issueNow s).divider = s.divider ∧
    (issueNow s).timeCount = s.timeCount ∧
    (issueNow s).link = s.link ∧
    (issueNow s).inReset = s.inReset ∧
    (issueNow s).freeCount = s.freeCount ∧
    (issueNow s).pending = s.pending := by
  unfold issueNow; split <;> simp

/-- Only ports, faultList, overflow may change. -/
@[simp] theorem reportPosted_frame (c : Committed) (k : FaultKind) (s : State) :
    (reportPosted c k s).intakePtr = s.intakePtr ∧
    (reportPosted c k s).windows = s.windows ∧
    (reportPosted c k s).entries = s.entries ∧
    (reportPosted c k s).commitOrder = s.commitOrder ∧
    (reportPosted c k s).pressure = s.pressure ∧
    (reportPosted c k s).slots = s.slots ∧
    (reportPosted c k s).contexts = s.contexts ∧
    (reportPosted c k s).fences = s.fences ∧
    (reportPosted c k s).nextFence = s.nextFence ∧
    (reportPosted c k s).accesses = s.accesses ∧
    (reportPosted c k s).arbiter = s.arbiter ∧
    (reportPosted c k s).stray = s.stray ∧
    (reportPosted c k s).modeEvent = s.modeEvent ∧
    (reportPosted c k s).mode = s.mode ∧
    (reportPosted c k s).config = s.config ∧
    (reportPosted c k s).divider = s.divider ∧
    (reportPosted c k s).timeCount = s.timeCount ∧
    (reportPosted c k s).link = s.link ∧
    (reportPosted c k s).inReset = s.inReset ∧
    (reportPosted c k s).freeCount = s.freeCount ∧
    (reportPosted c k s).pending = s.pending := by
  simp [reportPosted]

/-- Only ports may change. -/
@[simp] theorem answerThrough_frame (c : Committed) (a : Answer) (s : State) :
    (answerThrough c a s).intakePtr = s.intakePtr ∧
    (answerThrough c a s).windows = s.windows ∧
    (answerThrough c a s).entries = s.entries ∧
    (answerThrough c a s).commitOrder = s.commitOrder ∧
    (answerThrough c a s).pressure = s.pressure ∧
    (answerThrough c a s).slots = s.slots ∧
    (answerThrough c a s).contexts = s.contexts ∧
    (answerThrough c a s).fences = s.fences ∧
    (answerThrough c a s).nextFence = s.nextFence ∧
    (answerThrough c a s).accesses = s.accesses ∧
    (answerThrough c a s).arbiter = s.arbiter ∧
    (answerThrough c a s).faultList = s.faultList ∧
    (answerThrough c a s).overflow = s.overflow ∧
    (answerThrough c a s).stray = s.stray ∧
    (answerThrough c a s).modeEvent = s.modeEvent ∧
    (answerThrough c a s).mode = s.mode ∧
    (answerThrough c a s).config = s.config ∧
    (answerThrough c a s).divider = s.divider ∧
    (answerThrough c a s).timeCount = s.timeCount ∧
    (answerThrough c a s).link = s.link ∧
    (answerThrough c a s).inReset = s.inReset ∧
    (answerThrough c a s).freeCount = s.freeCount ∧
    (answerThrough c a s).pending = s.pending := by
  unfold answerThrough; split <;> simp

/-- Only ports, faultList, overflow may change. -/
@[simp] theorem reportEnd_frame (c : Committed) (e : AccessEnd) (s : State) :
    (reportEnd c e s).intakePtr = s.intakePtr ∧
    (reportEnd c e s).windows = s.windows ∧
    (reportEnd c e s).entries = s.entries ∧
    (reportEnd c e s).commitOrder = s.commitOrder ∧
    (reportEnd c e s).pressure = s.pressure ∧
    (reportEnd c e s).slots = s.slots ∧
    (reportEnd c e s).contexts = s.contexts ∧
    (reportEnd c e s).fences = s.fences ∧
    (reportEnd c e s).nextFence = s.nextFence ∧
    (reportEnd c e s).accesses = s.accesses ∧
    (reportEnd c e s).arbiter = s.arbiter ∧
    (reportEnd c e s).stray = s.stray ∧
    (reportEnd c e s).modeEvent = s.modeEvent ∧
    (reportEnd c e s).mode = s.mode ∧
    (reportEnd c e s).config = s.config ∧
    (reportEnd c e s).divider = s.divider ∧
    (reportEnd c e s).timeCount = s.timeCount ∧
    (reportEnd c e s).link = s.link ∧
    (reportEnd c e s).inReset = s.inReset ∧
    (reportEnd c e s).freeCount = s.freeCount ∧
    (reportEnd c e s).pending = s.pending := by
  unfold reportEnd; (repeat' split) <;> simp

/-- Only entries, commitOrder may change. -/
@[simp] theorem dropEntry_frame (i : EntryIx) (s : State) :
    (dropEntry i s).ports = s.ports ∧
    (dropEntry i s).intakePtr = s.intakePtr ∧
    (dropEntry i s).windows = s.windows ∧
    (dropEntry i s).pressure = s.pressure ∧
    (dropEntry i s).slots = s.slots ∧
    (dropEntry i s).contexts = s.contexts ∧
    (dropEntry i s).fences = s.fences ∧
    (dropEntry i s).nextFence = s.nextFence ∧
    (dropEntry i s).accesses = s.accesses ∧
    (dropEntry i s).arbiter = s.arbiter ∧
    (dropEntry i s).faultList = s.faultList ∧
    (dropEntry i s).overflow = s.overflow ∧
    (dropEntry i s).stray = s.stray ∧
    (dropEntry i s).modeEvent = s.modeEvent ∧
    (dropEntry i s).mode = s.mode ∧
    (dropEntry i s).config = s.config ∧
    (dropEntry i s).divider = s.divider ∧
    (dropEntry i s).timeCount = s.timeCount ∧
    (dropEntry i s).link = s.link ∧
    (dropEntry i s).inReset = s.inReset ∧
    (dropEntry i s).freeCount = s.freeCount ∧
    (dropEntry i s).pending = s.pending := by
  simp [dropEntry]

/-- Only ports, faultList, overflow, entries, commitOrder, fences, pressure, mode, modeEvent may change. -/
@[simp] theorem endWrite_frame (i : EntryIx) (e : AccessEnd) (s : State) :
    (endWrite i e s).intakePtr = s.intakePtr ∧
    (endWrite i e s).windows = s.windows ∧
    (endWrite i e s).slots = s.slots ∧
    (endWrite i e s).contexts = s.contexts ∧
    (endWrite i e s).nextFence = s.nextFence ∧
    (endWrite i e s).accesses = s.accesses ∧
    (endWrite i e s).arbiter = s.arbiter ∧
    (endWrite i e s).stray = s.stray ∧
    (endWrite i e s).config = s.config ∧
    (endWrite i e s).divider = s.divider ∧
    (endWrite i e s).timeCount = s.timeCount ∧
    (endWrite i e s).link = s.link ∧
    (endWrite i e s).inReset = s.inReset ∧
    (endWrite i e s).freeCount = s.freeCount ∧
    (endWrite i e s).pending = s.pending := by
  unfold endWrite; split <;> simp

/-- Only ports, faultList, overflow, entries, commitOrder, fences, pressure, mode, modeEvent, slots may change. -/
@[simp] theorem endOwner_frame (o : Owner) (e : AccessEnd) (s : State) :
    (endOwner o e s).intakePtr = s.intakePtr ∧
    (endOwner o e s).windows = s.windows ∧
    (endOwner o e s).contexts = s.contexts ∧
    (endOwner o e s).nextFence = s.nextFence ∧
    (endOwner o e s).accesses = s.accesses ∧
    (endOwner o e s).arbiter = s.arbiter ∧
    (endOwner o e s).stray = s.stray ∧
    (endOwner o e s).config = s.config ∧
    (endOwner o e s).divider = s.divider ∧
    (endOwner o e s).timeCount = s.timeCount ∧
    (endOwner o e s).link = s.link ∧
    (endOwner o e s).inReset = s.inReset ∧
    (endOwner o e s).freeCount = s.freeCount ∧
    (endOwner o e s).pending = s.pending := by
  unfold endOwner; split <;> simp

/-- Only ports, faultList, overflow, entries, commitOrder, fences, pressure, mode, modeEvent, slots, accesses may change. -/
@[simp] theorem endAccess_frame (t : AccessTag) (e : AccessEnd) (s : State) :
    (endAccess t e s).intakePtr = s.intakePtr ∧
    (endAccess t e s).windows = s.windows ∧
    (endAccess t e s).contexts = s.contexts ∧
    (endAccess t e s).nextFence = s.nextFence ∧
    (endAccess t e s).arbiter = s.arbiter ∧
    (endAccess t e s).stray = s.stray ∧
    (endAccess t e s).config = s.config ∧
    (endAccess t e s).divider = s.divider ∧
    (endAccess t e s).timeCount = s.timeCount ∧
    (endAccess t e s).link = s.link ∧
    (endAccess t e s).inReset = s.inReset ∧
    (endAccess t e s).freeCount = s.freeCount ∧
    (endAccess t e s).pending = s.pending := by
  unfold endAccess; split <;> simp

/-- Only ports, faultList, overflow, entries, commitOrder, fences, pressure, mode, modeEvent, slots, accesses, stray may change. -/
@[simp] theorem responseArrives_frame (t : AccessTag) (st : MemStatus) (d : BitVec 256) (s : State) :
    (responseArrives t st d s).intakePtr = s.intakePtr ∧
    (responseArrives t st d s).windows = s.windows ∧
    (responseArrives t st d s).contexts = s.contexts ∧
    (responseArrives t st d s).nextFence = s.nextFence ∧
    (responseArrives t st d s).arbiter = s.arbiter ∧
    (responseArrives t st d s).config = s.config ∧
    (responseArrives t st d s).divider = s.divider ∧
    (responseArrives t st d s).timeCount = s.timeCount ∧
    (responseArrives t st d s).link = s.link ∧
    (responseArrives t st d s).inReset = s.inReset ∧
    (responseArrives t st d s).freeCount = s.freeCount ∧
    (responseArrives t st d s).pending = s.pending := by
  unfold responseArrives; split <;> simp

/-- Only ports, faultList, overflow, entries, commitOrder, fences, pressure, mode, modeEvent, slots, accesses may change. -/
@[simp] theorem expireAccess_frame (t : AccessTag) (s : State) :
    (expireAccess t s).intakePtr = s.intakePtr ∧
    (expireAccess t s).windows = s.windows ∧
    (expireAccess t s).contexts = s.contexts ∧
    (expireAccess t s).nextFence = s.nextFence ∧
    (expireAccess t s).arbiter = s.arbiter ∧
    (expireAccess t s).stray = s.stray ∧
    (expireAccess t s).config = s.config ∧
    (expireAccess t s).divider = s.divider ∧
    (expireAccess t s).timeCount = s.timeCount ∧
    (expireAccess t s).link = s.link ∧
    (expireAccess t s).inReset = s.inReset ∧
    (expireAccess t s).freeCount = s.freeCount ∧
    (expireAccess t s).pending = s.pending := by
  unfold expireAccess; split <;> simp

/-- Only accesses may change. -/
@[simp] theorem releaseAllTags_frame (s : State) :
    (releaseAllTags s).ports = s.ports ∧
    (releaseAllTags s).intakePtr = s.intakePtr ∧
    (releaseAllTags s).windows = s.windows ∧
    (releaseAllTags s).entries = s.entries ∧
    (releaseAllTags s).commitOrder = s.commitOrder ∧
    (releaseAllTags s).pressure = s.pressure ∧
    (releaseAllTags s).slots = s.slots ∧
    (releaseAllTags s).contexts = s.contexts ∧
    (releaseAllTags s).fences = s.fences ∧
    (releaseAllTags s).nextFence = s.nextFence ∧
    (releaseAllTags s).arbiter = s.arbiter ∧
    (releaseAllTags s).faultList = s.faultList ∧
    (releaseAllTags s).overflow = s.overflow ∧
    (releaseAllTags s).stray = s.stray ∧
    (releaseAllTags s).modeEvent = s.modeEvent ∧
    (releaseAllTags s).mode = s.mode ∧
    (releaseAllTags s).config = s.config ∧
    (releaseAllTags s).divider = s.divider ∧
    (releaseAllTags s).timeCount = s.timeCount ∧
    (releaseAllTags s).link = s.link ∧
    (releaseAllTags s).inReset = s.inReset ∧
    (releaseAllTags s).freeCount = s.freeCount ∧
    (releaseAllTags s).pending = s.pending := by
  simp [releaseAllTags]

/-- Only link may change. -/
@[simp] theorem linkReset_frame (s : State) :
    (linkReset s).ports = s.ports ∧
    (linkReset s).intakePtr = s.intakePtr ∧
    (linkReset s).windows = s.windows ∧
    (linkReset s).entries = s.entries ∧
    (linkReset s).commitOrder = s.commitOrder ∧
    (linkReset s).pressure = s.pressure ∧
    (linkReset s).slots = s.slots ∧
    (linkReset s).contexts = s.contexts ∧
    (linkReset s).fences = s.fences ∧
    (linkReset s).nextFence = s.nextFence ∧
    (linkReset s).accesses = s.accesses ∧
    (linkReset s).arbiter = s.arbiter ∧
    (linkReset s).faultList = s.faultList ∧
    (linkReset s).overflow = s.overflow ∧
    (linkReset s).stray = s.stray ∧
    (linkReset s).modeEvent = s.modeEvent ∧
    (linkReset s).mode = s.mode ∧
    (linkReset s).config = s.config ∧
    (linkReset s).divider = s.divider ∧
    (linkReset s).timeCount = s.timeCount ∧
    (linkReset s).inReset = s.inReset ∧
    (linkReset s).freeCount = s.freeCount ∧
    (linkReset s).pending = s.pending := by
  simp [linkReset]

/-- Only link may change. -/
@[simp] theorem expireBus_frame (s : State) :
    (expireBus s).ports = s.ports ∧
    (expireBus s).intakePtr = s.intakePtr ∧
    (expireBus s).windows = s.windows ∧
    (expireBus s).entries = s.entries ∧
    (expireBus s).commitOrder = s.commitOrder ∧
    (expireBus s).pressure = s.pressure ∧
    (expireBus s).slots = s.slots ∧
    (expireBus s).contexts = s.contexts ∧
    (expireBus s).fences = s.fences ∧
    (expireBus s).nextFence = s.nextFence ∧
    (expireBus s).accesses = s.accesses ∧
    (expireBus s).arbiter = s.arbiter ∧
    (expireBus s).faultList = s.faultList ∧
    (expireBus s).overflow = s.overflow ∧
    (expireBus s).stray = s.stray ∧
    (expireBus s).modeEvent = s.modeEvent ∧
    (expireBus s).mode = s.mode ∧
    (expireBus s).config = s.config ∧
    (expireBus s).divider = s.divider ∧
    (expireBus s).timeCount = s.timeCount ∧
    (expireBus s).inReset = s.inReset ∧
    (expireBus s).freeCount = s.freeCount ∧
    (expireBus s).pending = s.pending := by
  unfold expireBus; (repeat' split) <;> simp

/-- Only ports, faultList, overflow, entries, commitOrder, fences, pressure, mode, modeEvent, slots, accesses, freeCount may change. -/
@[simp] theorem expireAccesses_frame (n : Nat) (s : State) :
    (expireAccesses n s).intakePtr = s.intakePtr ∧
    (expireAccesses n s).windows = s.windows ∧
    (expireAccesses n s).contexts = s.contexts ∧
    (expireAccesses n s).nextFence = s.nextFence ∧
    (expireAccesses n s).arbiter = s.arbiter ∧
    (expireAccesses n s).stray = s.stray ∧
    (expireAccesses n s).config = s.config ∧
    (expireAccesses n s).divider = s.divider ∧
    (expireAccesses n s).timeCount = s.timeCount ∧
    (expireAccesses n s).link = s.link ∧
    (expireAccesses n s).inReset = s.inReset ∧
    (expireAccesses n s).pending = s.pending := by
  induction n generalizing s with
  | zero => simp [expireAccesses]
  | succ n ih => unfold expireAccesses; split <;> simp [ih]

/-- Only entries, contexts, pressure, mode, modeEvent may change. -/
@[simp] theorem expireIdles_frame (l : List CtxIx) (s : State) :
    (l.foldl (fun t c => expireIdle c t) s).ports = s.ports ∧
    (l.foldl (fun t c => expireIdle c t) s).intakePtr = s.intakePtr ∧
    (l.foldl (fun t c => expireIdle c t) s).windows = s.windows ∧
    (l.foldl (fun t c => expireIdle c t) s).commitOrder = s.commitOrder ∧
    (l.foldl (fun t c => expireIdle c t) s).slots = s.slots ∧
    (l.foldl (fun t c => expireIdle c t) s).fences = s.fences ∧
    (l.foldl (fun t c => expireIdle c t) s).nextFence = s.nextFence ∧
    (l.foldl (fun t c => expireIdle c t) s).accesses = s.accesses ∧
    (l.foldl (fun t c => expireIdle c t) s).arbiter = s.arbiter ∧
    (l.foldl (fun t c => expireIdle c t) s).faultList = s.faultList ∧
    (l.foldl (fun t c => expireIdle c t) s).overflow = s.overflow ∧
    (l.foldl (fun t c => expireIdle c t) s).stray = s.stray ∧
    (l.foldl (fun t c => expireIdle c t) s).config = s.config ∧
    (l.foldl (fun t c => expireIdle c t) s).divider = s.divider ∧
    (l.foldl (fun t c => expireIdle c t) s).timeCount = s.timeCount ∧
    (l.foldl (fun t c => expireIdle c t) s).link = s.link ∧
    (l.foldl (fun t c => expireIdle c t) s).inReset = s.inReset ∧
    (l.foldl (fun t c => expireIdle c t) s).freeCount = s.freeCount ∧
    (l.foldl (fun t c => expireIdle c t) s).pending = s.pending := by
  induction l generalizing s with
  | nil => simp
  | cons c l ih => simpa using ih (expireIdle c s)

/-- Only entries, contexts, pressure, mode, modeEvent, link may change. -/
@[simp] theorem expireBusAndIdles_frame (s : State) :
    (expireBusAndIdles s).ports = s.ports ∧
    (expireBusAndIdles s).intakePtr = s.intakePtr ∧
    (expireBusAndIdles s).windows = s.windows ∧
    (expireBusAndIdles s).commitOrder = s.commitOrder ∧
    (expireBusAndIdles s).slots = s.slots ∧
    (expireBusAndIdles s).fences = s.fences ∧
    (expireBusAndIdles s).nextFence = s.nextFence ∧
    (expireBusAndIdles s).accesses = s.accesses ∧
    (expireBusAndIdles s).arbiter = s.arbiter ∧
    (expireBusAndIdles s).faultList = s.faultList ∧
    (expireBusAndIdles s).overflow = s.overflow ∧
    (expireBusAndIdles s).stray = s.stray ∧
    (expireBusAndIdles s).config = s.config ∧
    (expireBusAndIdles s).divider = s.divider ∧
    (expireBusAndIdles s).timeCount = s.timeCount ∧
    (expireBusAndIdles s).inReset = s.inReset ∧
    (expireBusAndIdles s).freeCount = s.freeCount ∧
    (expireBusAndIdles s).pending = s.pending := by
  simp [expireBusAndIdles]

/-- Only entries, contexts, accesses, link, timeCount, divider may change. -/
@[simp] theorem advanceTimers_frame (s : State) :
    (advanceTimers s).ports = s.ports ∧
    (advanceTimers s).intakePtr = s.intakePtr ∧
    (advanceTimers s).windows = s.windows ∧
    (advanceTimers s).commitOrder = s.commitOrder ∧
    (advanceTimers s).pressure = s.pressure ∧
    (advanceTimers s).slots = s.slots ∧
    (advanceTimers s).fences = s.fences ∧
    (advanceTimers s).nextFence = s.nextFence ∧
    (advanceTimers s).arbiter = s.arbiter ∧
    (advanceTimers s).faultList = s.faultList ∧
    (advanceTimers s).overflow = s.overflow ∧
    (advanceTimers s).stray = s.stray ∧
    (advanceTimers s).modeEvent = s.modeEvent ∧
    (advanceTimers s).mode = s.mode ∧
    (advanceTimers s).config = s.config ∧
    (advanceTimers s).inReset = s.inReset ∧
    (advanceTimers s).freeCount = s.freeCount ∧
    (advanceTimers s).pending = s.pending := by
  simp [advanceTimers]

/-- Only ports, faultList, overflow, entries, commitOrder, fences, pressure, mode, modeEvent, slots, accesses, freeCount, link, contexts, timeCount, divider may change. -/
@[simp] theorem tickNow_frame (s : State) :
    (tickNow s).intakePtr = s.intakePtr ∧
    (tickNow s).windows = s.windows ∧
    (tickNow s).nextFence = s.nextFence ∧
    (tickNow s).arbiter = s.arbiter ∧
    (tickNow s).stray = s.stray ∧
    (tickNow s).config = s.config ∧
    (tickNow s).inReset = s.inReset ∧
    (tickNow s).pending = s.pending := by
  simp [tickNow]

/-- Only ports, faultList, overflow, entries, commitOrder, fences, pressure, mode, modeEvent, slots, accesses, freeCount, link, contexts, timeCount, divider may change. -/
@[simp] theorem tickTimingOut_frame (t : AccessTag) (s : State) :
    (tickTimingOut t s).intakePtr = s.intakePtr ∧
    (tickTimingOut t s).windows = s.windows ∧
    (tickTimingOut t s).nextFence = s.nextFence ∧
    (tickTimingOut t s).arbiter = s.arbiter ∧
    (tickTimingOut t s).stray = s.stray ∧
    (tickTimingOut t s).config = s.config ∧
    (tickTimingOut t s).inReset = s.inReset ∧
    (tickTimingOut t s).pending = s.pending := by
  simp [tickTimingOut]

/-- Only ports, faultList, overflow, entries, commitOrder, fences, pressure, mode, modeEvent, slots, accesses, freeCount, link, contexts, timeCount, divider may change. -/
@[simp] theorem clkPeriod_frame (s : State) :
    (clkPeriod s).intakePtr = s.intakePtr ∧
    (clkPeriod s).windows = s.windows ∧
    (clkPeriod s).nextFence = s.nextFence ∧
    (clkPeriod s).arbiter = s.arbiter ∧
    (clkPeriod s).stray = s.stray ∧
    (clkPeriod s).config = s.config ∧
    (clkPeriod s).inReset = s.inReset ∧
    (clkPeriod s).pending = s.pending := by
  unfold clkPeriod; split <;> simp

/-- Only ports may change. -/
@[simp] theorem setHeld_frame (n : Port) (b : Bool) (s : State) :
    (setHeld n b s).intakePtr = s.intakePtr ∧
    (setHeld n b s).windows = s.windows ∧
    (setHeld n b s).entries = s.entries ∧
    (setHeld n b s).commitOrder = s.commitOrder ∧
    (setHeld n b s).pressure = s.pressure ∧
    (setHeld n b s).slots = s.slots ∧
    (setHeld n b s).contexts = s.contexts ∧
    (setHeld n b s).fences = s.fences ∧
    (setHeld n b s).nextFence = s.nextFence ∧
    (setHeld n b s).accesses = s.accesses ∧
    (setHeld n b s).arbiter = s.arbiter ∧
    (setHeld n b s).faultList = s.faultList ∧
    (setHeld n b s).overflow = s.overflow ∧
    (setHeld n b s).stray = s.stray ∧
    (setHeld n b s).modeEvent = s.modeEvent ∧
    (setHeld n b s).mode = s.mode ∧
    (setHeld n b s).config = s.config ∧
    (setHeld n b s).divider = s.divider ∧
    (setHeld n b s).timeCount = s.timeCount ∧
    (setHeld n b s).link = s.link ∧
    (setHeld n b s).inReset = s.inReset ∧
    (setHeld n b s).freeCount = s.freeCount ∧
    (setHeld n b s).pending = s.pending := by
  simp [setHeld]

/-- Only ports, entries, slots, contexts, fences, pressure, mode, modeEvent may change. -/
@[simp] theorem portResetNow_frame (n : Port) (s : State) :
    (portResetNow n s).intakePtr = s.intakePtr ∧
    (portResetNow n s).windows = s.windows ∧
    (portResetNow n s).commitOrder = s.commitOrder ∧
    (portResetNow n s).nextFence = s.nextFence ∧
    (portResetNow n s).accesses = s.accesses ∧
    (portResetNow n s).arbiter = s.arbiter ∧
    (portResetNow n s).faultList = s.faultList ∧
    (portResetNow n s).overflow = s.overflow ∧
    (portResetNow n s).stray = s.stray ∧
    (portResetNow n s).config = s.config ∧
    (portResetNow n s).divider = s.divider ∧
    (portResetNow n s).timeCount = s.timeCount ∧
    (portResetNow n s).link = s.link ∧
    (portResetNow n s).inReset = s.inReset ∧
    (portResetNow n s).freeCount = s.freeCount ∧
    (portResetNow n s).pending = s.pending := by
  simp [portResetNow]

/-- Only link may change. -/
@[simp] theorem advanceIndex_frame (s : State) :
    (advanceIndex s).ports = s.ports ∧
    (advanceIndex s).intakePtr = s.intakePtr ∧
    (advanceIndex s).windows = s.windows ∧
    (advanceIndex s).entries = s.entries ∧
    (advanceIndex s).commitOrder = s.commitOrder ∧
    (advanceIndex s).pressure = s.pressure ∧
    (advanceIndex s).slots = s.slots ∧
    (advanceIndex s).contexts = s.contexts ∧
    (advanceIndex s).fences = s.fences ∧
    (advanceIndex s).nextFence = s.nextFence ∧
    (advanceIndex s).accesses = s.accesses ∧
    (advanceIndex s).arbiter = s.arbiter ∧
    (advanceIndex s).faultList = s.faultList ∧
    (advanceIndex s).overflow = s.overflow ∧
    (advanceIndex s).stray = s.stray ∧
    (advanceIndex s).modeEvent = s.modeEvent ∧
    (advanceIndex s).mode = s.mode ∧
    (advanceIndex s).config = s.config ∧
    (advanceIndex s).divider = s.divider ∧
    (advanceIndex s).timeCount = s.timeCount ∧
    (advanceIndex s).inReset = s.inReset ∧
    (advanceIndex s).freeCount = s.freeCount ∧
    (advanceIndex s).pending = s.pending := by
  simp [advanceIndex]

/-- Only link may change. -/
@[simp] theorem startFrame_frame (b : Byte) (s : State) :
    (startFrame b s).ports = s.ports ∧
    (startFrame b s).intakePtr = s.intakePtr ∧
    (startFrame b s).windows = s.windows ∧
    (startFrame b s).entries = s.entries ∧
    (startFrame b s).commitOrder = s.commitOrder ∧
    (startFrame b s).pressure = s.pressure ∧
    (startFrame b s).slots = s.slots ∧
    (startFrame b s).contexts = s.contexts ∧
    (startFrame b s).fences = s.fences ∧
    (startFrame b s).nextFence = s.nextFence ∧
    (startFrame b s).accesses = s.accesses ∧
    (startFrame b s).arbiter = s.arbiter ∧
    (startFrame b s).faultList = s.faultList ∧
    (startFrame b s).overflow = s.overflow ∧
    (startFrame b s).stray = s.stray ∧
    (startFrame b s).modeEvent = s.modeEvent ∧
    (startFrame b s).mode = s.mode ∧
    (startFrame b s).config = s.config ∧
    (startFrame b s).divider = s.divider ∧
    (startFrame b s).timeCount = s.timeCount ∧
    (startFrame b s).inReset = s.inReset ∧
    (startFrame b s).freeCount = s.freeCount ∧
    (startFrame b s).pending = s.pending := by
  unfold startFrame; (repeat' split) <;> simp

/-- Only link may change. -/
@[simp] theorem indexByte_frame (b : Byte) (s : State) :
    (indexByte b s).ports = s.ports ∧
    (indexByte b s).intakePtr = s.intakePtr ∧
    (indexByte b s).windows = s.windows ∧
    (indexByte b s).entries = s.entries ∧
    (indexByte b s).commitOrder = s.commitOrder ∧
    (indexByte b s).pressure = s.pressure ∧
    (indexByte b s).slots = s.slots ∧
    (indexByte b s).contexts = s.contexts ∧
    (indexByte b s).fences = s.fences ∧
    (indexByte b s).nextFence = s.nextFence ∧
    (indexByte b s).accesses = s.accesses ∧
    (indexByte b s).arbiter = s.arbiter ∧
    (indexByte b s).faultList = s.faultList ∧
    (indexByte b s).overflow = s.overflow ∧
    (indexByte b s).stray = s.stray ∧
    (indexByte b s).modeEvent = s.modeEvent ∧
    (indexByte b s).mode = s.mode ∧
    (indexByte b s).config = s.config ∧
    (indexByte b s).divider = s.divider ∧
    (indexByte b s).timeCount = s.timeCount ∧
    (indexByte b s).inReset = s.inReset ∧
    (indexByte b s).freeCount = s.freeCount ∧
    (indexByte b s).pending = s.pending := by
  unfold indexByte; split <;> simp

/-- Only link may change. -/
@[simp] theorem sendByte_frame (a : Bool) (s : State) :
    (sendByte a s).ports = s.ports ∧
    (sendByte a s).intakePtr = s.intakePtr ∧
    (sendByte a s).windows = s.windows ∧
    (sendByte a s).entries = s.entries ∧
    (sendByte a s).commitOrder = s.commitOrder ∧
    (sendByte a s).pressure = s.pressure ∧
    (sendByte a s).slots = s.slots ∧
    (sendByte a s).contexts = s.contexts ∧
    (sendByte a s).fences = s.fences ∧
    (sendByte a s).nextFence = s.nextFence ∧
    (sendByte a s).accesses = s.accesses ∧
    (sendByte a s).arbiter = s.arbiter ∧
    (sendByte a s).faultList = s.faultList ∧
    (sendByte a s).overflow = s.overflow ∧
    (sendByte a s).stray = s.stray ∧
    (sendByte a s).modeEvent = s.modeEvent ∧
    (sendByte a s).mode = s.mode ∧
    (sendByte a s).config = s.config ∧
    (sendByte a s).divider = s.divider ∧
    (sendByte a s).timeCount = s.timeCount ∧
    (sendByte a s).inReset = s.inReset ∧
    (sendByte a s).freeCount = s.freeCount ∧
    (sendByte a s).pending = s.pending := by
  unfold sendByte; (repeat' split) <;> simp

/-- Only link may change. -/
@[simp] theorem sclEdgeNow_frame (e : SclEdge) (s : State) :
    (sclEdgeNow e s).ports = s.ports ∧
    (sclEdgeNow e s).intakePtr = s.intakePtr ∧
    (sclEdgeNow e s).windows = s.windows ∧
    (sclEdgeNow e s).entries = s.entries ∧
    (sclEdgeNow e s).commitOrder = s.commitOrder ∧
    (sclEdgeNow e s).pressure = s.pressure ∧
    (sclEdgeNow e s).slots = s.slots ∧
    (sclEdgeNow e s).contexts = s.contexts ∧
    (sclEdgeNow e s).fences = s.fences ∧
    (sclEdgeNow e s).nextFence = s.nextFence ∧
    (sclEdgeNow e s).accesses = s.accesses ∧
    (sclEdgeNow e s).arbiter = s.arbiter ∧
    (sclEdgeNow e s).faultList = s.faultList ∧
    (sclEdgeNow e s).overflow = s.overflow ∧
    (sclEdgeNow e s).stray = s.stray ∧
    (sclEdgeNow e s).modeEvent = s.modeEvent ∧
    (sclEdgeNow e s).mode = s.mode ∧
    (sclEdgeNow e s).config = s.config ∧
    (sclEdgeNow e s).divider = s.divider ∧
    (sclEdgeNow e s).timeCount = s.timeCount ∧
    (sclEdgeNow e s).inReset = s.inReset ∧
    (sclEdgeNow e s).freeCount = s.freeCount ∧
    (sclEdgeNow e s).pending = s.pending := by
  unfold sclEdgeNow; (repeat' split) <;> simp

/-- Only ports, entries, contexts, pressure, mode, modeEvent may change where the request is taken. -/
theorem newMemberPresented_frame {s : State} {p : Port} {tag : ReqTag} {c : CtxIx} {o : OpenCtx}
    {ln : Addr} {k : ByteMask} {d : LineData} {t : State}
    (h : newMemberPresented s p tag c o ln k d = some t) :
    t.intakePtr = s.intakePtr ∧
    t.windows = s.windows ∧
    t.commitOrder = s.commitOrder ∧
    t.slots = s.slots ∧
    t.fences = s.fences ∧
    t.nextFence = s.nextFence ∧
    t.accesses = s.accesses ∧
    t.arbiter = s.arbiter ∧
    t.faultList = s.faultList ∧
    t.overflow = s.overflow ∧
    t.stray = s.stray ∧
    t.config = s.config ∧
    t.divider = s.divider ∧
    t.timeCount = s.timeCount ∧
    t.link = s.link ∧
    t.inReset = s.inReset ∧
    t.freeCount = s.freeCount ∧
    t.pending = s.pending := by
  unfold newMemberPresented at h
  split at h
  · simp only [Option.some.injEq] at h; subst h; simp
  · split at h
    · simp only [Option.some.injEq] at h; subst h; simp
    · split at h
      · cases h
      · simp only [Option.map_eq_some_iff] at h; obtain ⟨_, _, h⟩ := h; subst h; simp

/-- Only ports, entries, contexts, pressure, mode, modeEvent may change where the request is taken. -/
theorem openMemberPresented_frame {s : State} {p : Port} {tag : ReqTag} {c : CtxIx} {o : OpenCtx}
    {a : Addr} {k : ByteMask} {d : LineData} {t : State}
    (h : openMemberPresented s p tag c o a k d = some t) :
    t.intakePtr = s.intakePtr ∧
    t.windows = s.windows ∧
    t.commitOrder = s.commitOrder ∧
    t.slots = s.slots ∧
    t.fences = s.fences ∧
    t.nextFence = s.nextFence ∧
    t.accesses = s.accesses ∧
    t.arbiter = s.arbiter ∧
    t.faultList = s.faultList ∧
    t.overflow = s.overflow ∧
    t.stray = s.stray ∧
    t.config = s.config ∧
    t.divider = s.divider ∧
    t.timeCount = s.timeCount ∧
    t.link = s.link ∧
    t.inReset = s.inReset ∧
    t.freeCount = s.freeCount ∧
    t.pending = s.pending := by
  unfold openMemberPresented at h
  (repeat' split at h) <;>
    first
      | exact newMemberPresented_frame h
      | (simp only [Option.some.injEq] at h; subst h; simp)

/-- Only ports, entries, contexts, pressure, mode, modeEvent may change where the request is taken. -/
theorem memberWritePresented_frame {s : State} {p : Port} {tag : ReqTag} {l : Lane} {a : Addr}
    {k : ByteMask} {d : LineData} {t : State}
    (h : memberWritePresented s p tag l a k d = some t) :
    t.intakePtr = s.intakePtr ∧
    t.windows = s.windows ∧
    t.commitOrder = s.commitOrder ∧
    t.slots = s.slots ∧
    t.fences = s.fences ∧
    t.nextFence = s.nextFence ∧
    t.accesses = s.accesses ∧
    t.arbiter = s.arbiter ∧
    t.faultList = s.faultList ∧
    t.overflow = s.overflow ∧
    t.stray = s.stray ∧
    t.config = s.config ∧
    t.divider = s.divider ∧
    t.timeCount = s.timeCount ∧
    t.link = s.link ∧
    t.inReset = s.inReset ∧
    t.freeCount = s.freeCount ∧
    t.pending = s.pending := by
  unfold memberWritePresented at h
  (repeat' split at h) <;>
    first
      | exact openMemberPresented_frame h
      | (simp only [Option.some.injEq] at h; subst h; simp)

/-- Only ports, entries, commitOrder, pressure may change where the request is taken. -/
theorem plainWritePresented_frame {s : State} {p : Port} {tag : ReqTag} {a : Addr} {k : ByteMask}
    {d : LineData} {t : State}
    (h : plainWritePresented s p tag a k d = some t) :
    t.intakePtr = s.intakePtr ∧
    t.windows = s.windows ∧
    t.slots = s.slots ∧
    t.contexts = s.contexts ∧
    t.fences = s.fences ∧
    t.nextFence = s.nextFence ∧
    t.accesses = s.accesses ∧
    t.arbiter = s.arbiter ∧
    t.faultList = s.faultList ∧
    t.overflow = s.overflow ∧
    t.stray = s.stray ∧
    t.modeEvent = s.modeEvent ∧
    t.mode = s.mode ∧
    t.config = s.config ∧
    t.divider = s.divider ∧
    t.timeCount = s.timeCount ∧
    t.link = s.link ∧
    t.inReset = s.inReset ∧
    t.freeCount = s.freeCount ∧
    t.pending = s.pending := by
  unfold plainWritePresented at h
  split at h
  · simp only [Option.some.injEq] at h; subst h; simp
  · simp only [Option.map_eq_some_iff] at h
    obtain ⟨i, _, h⟩ := h
    split at h <;> (subst h; simp)

/-- Only ports, commitOrder, entries, contexts, pressure, mode, modeEvent may change where the request is taken. -/
theorem writePresented_frame {s : State} {p : Port} {tag : ReqTag} {a : Addr} {l : Option Lane}
    {k : ByteMask} {d : LineData} {t : State}
    (h : writePresented s p tag a l k d = some t) :
    t.intakePtr = s.intakePtr ∧
    t.windows = s.windows ∧
    t.slots = s.slots ∧
    t.fences = s.fences ∧
    t.nextFence = s.nextFence ∧
    t.accesses = s.accesses ∧
    t.arbiter = s.arbiter ∧
    t.faultList = s.faultList ∧
    t.overflow = s.overflow ∧
    t.stray = s.stray ∧
    t.config = s.config ∧
    t.divider = s.divider ∧
    t.timeCount = s.timeCount ∧
    t.link = s.link ∧
    t.inReset = s.inReset ∧
    t.freeCount = s.freeCount ∧
    t.pending = s.pending := by
  unfold writePresented at h
  split at h
  · cases h
  · split at h
    · have := plainWritePresented_frame h; simp [this]
    · have := memberWritePresented_frame h; simp [this]

/-- Only ports, slots may change where the request is taken. -/
theorem forwardedReadPresented_frame {s : State} {p : Port} {tag : ReqTag} {a : Addr} {n : Nat} {t : State}
    (h : forwardedReadPresented s p tag a n = some t) :
    t.intakePtr = s.intakePtr ∧
    t.windows = s.windows ∧
    t.entries = s.entries ∧
    t.commitOrder = s.commitOrder ∧
    t.pressure = s.pressure ∧
    t.contexts = s.contexts ∧
    t.fences = s.fences ∧
    t.nextFence = s.nextFence ∧
    t.accesses = s.accesses ∧
    t.arbiter = s.arbiter ∧
    t.faultList = s.faultList ∧
    t.overflow = s.overflow ∧
    t.stray = s.stray ∧
    t.modeEvent = s.modeEvent ∧
    t.mode = s.mode ∧
    t.config = s.config ∧
    t.divider = s.divider ∧
    t.timeCount = s.timeCount ∧
    t.link = s.link ∧
    t.inReset = s.inReset ∧
    t.freeCount = s.freeCount ∧
    t.pending = s.pending := by
  unfold forwardedReadPresented at h
  dsimp only at h
  split at h
  · simp only [Option.some.injEq] at h; subst h; simp
  · simp only [Option.map_eq_some_iff] at h; obtain ⟨_, _, h⟩ := h; subst h; simp

/-- Only ports, slots may change where the request is taken. -/
theorem orderedReadPresented_frame {s : State} {p : Port} {tag : ReqTag} {a : Addr} {n : Nat} {t : State}
    (h : orderedReadPresented s p tag a n = some t) :
    t.intakePtr = s.intakePtr ∧
    t.windows = s.windows ∧
    t.entries = s.entries ∧
    t.commitOrder = s.commitOrder ∧
    t.pressure = s.pressure ∧
    t.contexts = s.contexts ∧
    t.fences = s.fences ∧
    t.nextFence = s.nextFence ∧
    t.accesses = s.accesses ∧
    t.arbiter = s.arbiter ∧
    t.faultList = s.faultList ∧
    t.overflow = s.overflow ∧
    t.stray = s.stray ∧
    t.modeEvent = s.modeEvent ∧
    t.mode = s.mode ∧
    t.config = s.config ∧
    t.divider = s.divider ∧
    t.timeCount = s.timeCount ∧
    t.link = s.link ∧
    t.inReset = s.inReset ∧
    t.freeCount = s.freeCount ∧
    t.pending = s.pending := by
  unfold orderedReadPresented at h
  dsimp only at h
  simp only [Option.map_eq_some_iff] at h; obtain ⟨_, _, h⟩ := h; subst h; simp

/-- Only ports, slots may change where the request is taken. -/
theorem readPresented_frame {s : State} {p : Port} {tag : ReqTag} {a : Addr} {n : Nat} {t : State}
    (h : readPresented s p tag a n = some t) :
    t.intakePtr = s.intakePtr ∧
    t.windows = s.windows ∧
    t.entries = s.entries ∧
    t.commitOrder = s.commitOrder ∧
    t.pressure = s.pressure ∧
    t.contexts = s.contexts ∧
    t.fences = s.fences ∧
    t.nextFence = s.nextFence ∧
    t.accesses = s.accesses ∧
    t.arbiter = s.arbiter ∧
    t.faultList = s.faultList ∧
    t.overflow = s.overflow ∧
    t.stray = s.stray ∧
    t.modeEvent = s.modeEvent ∧
    t.mode = s.mode ∧
    t.config = s.config ∧
    t.divider = s.divider ∧
    t.timeCount = s.timeCount ∧
    t.link = s.link ∧
    t.inReset = s.inReset ∧
    t.freeCount = s.freeCount ∧
    t.pending = s.pending := by
  unfold readPresented at h
  split at h
  · simp only [Option.some.injEq] at h; subst h; simp
  · split at h
    · exact orderedReadPresented_frame h
    · exact forwardedReadPresented_frame h

/-- Only ports, slots, fences, nextFence, commitOrder, entries, contexts, pressure, mode, modeEvent may change where the request is taken. -/
theorem present_frame {s : State} {p : Port} {r : Request} {t : State}
    (h : present s p r = some t) :
    t.intakePtr = s.intakePtr ∧
    t.windows = s.windows ∧
    t.accesses = s.accesses ∧
    t.arbiter = s.arbiter ∧
    t.faultList = s.faultList ∧
    t.overflow = s.overflow ∧
    t.stray = s.stray ∧
    t.config = s.config ∧
    t.divider = s.divider ∧
    t.timeCount = s.timeCount ∧
    t.link = s.link ∧
    t.inReset = s.inReset ∧
    t.freeCount = s.freeCount ∧
    t.pending = s.pending := by
  unfold present at h
  split at h
  · have := readPresented_frame h; simp [this]
  · split at h
    · simp only [Option.some.injEq] at h; subst h; simp
    · have := writePresented_frame h; simp [this]
  all_goals (simp only [Option.some.injEq] at h; subst h; simp)

/-- Only intakePtr, ports, slots, fences, nextFence, commitOrder, entries, contexts, pressure, mode, modeEvent may change. -/
@[simp] theorem acceptWhere_frame (row : State → ReqBody → Bool) (s : State) :
    (acceptWhere row s).windows = s.windows ∧
    (acceptWhere row s).accesses = s.accesses ∧
    (acceptWhere row s).arbiter = s.arbiter ∧
    (acceptWhere row s).faultList = s.faultList ∧
    (acceptWhere row s).overflow = s.overflow ∧
    (acceptWhere row s).stray = s.stray ∧
    (acceptWhere row s).config = s.config ∧
    (acceptWhere row s).divider = s.divider ∧
    (acceptWhere row s).timeCount = s.timeCount ∧
    (acceptWhere row s).link = s.link ∧
    (acceptWhere row s).inReset = s.inReset ∧
    (acceptWhere row s).freeCount = s.freeCount ∧
    (acceptWhere row s).pending = s.pending := by
  unfold acceptWhere
  (repeat' split) <;> first
    | (simp; done)
    | (rename_i h; have := present_frame h; simp [this])

/-- Only the last result may change. -/
@[simp] theorem recordResult_frame (x : BitVec 16) (w : Written) :
    (recordResult x w).ports = w.1.ports ∧
    (recordResult x w).intakePtr = w.1.intakePtr ∧
    (recordResult x w).windows = w.1.windows ∧
    (recordResult x w).entries = w.1.entries ∧
    (recordResult x w).commitOrder = w.1.commitOrder ∧
    (recordResult x w).pressure = w.1.pressure ∧
    (recordResult x w).slots = w.1.slots ∧
    (recordResult x w).contexts = w.1.contexts ∧
    (recordResult x w).fences = w.1.fences ∧
    (recordResult x w).nextFence = w.1.nextFence ∧
    (recordResult x w).accesses = w.1.accesses ∧
    (recordResult x w).arbiter = w.1.arbiter ∧
    (recordResult x w).faultList = w.1.faultList ∧
    (recordResult x w).overflow = w.1.overflow ∧
    (recordResult x w).stray = w.1.stray ∧
    (recordResult x w).modeEvent = w.1.modeEvent ∧
    (recordResult x w).mode = w.1.mode ∧
    (recordResult x w).config = w.1.config ∧
    (recordResult x w).divider = w.1.divider ∧
    (recordResult x w).timeCount = w.1.timeCount ∧
    (recordResult x w).inReset = w.1.inReset ∧
    (recordResult x w).freeCount = w.1.freeCount ∧
    (recordResult x w).pending = w.1.pending := by
  simp [recordResult]

end Sys2Proof.Machine
end

