-- ==== Sys2Proof/Laws/Effects.lean ====
section
/-! SUPPORT. What the shared operations change, record by record, beside Laws/Frames.lean, which says what they leave. -/

namespace Sys2Proof.Machine

open Sys2Proof.Safety

/-! ## The lowest record that passes a test -/

/-- The lowest position that passes a test is the first that does. -/
theorem lowest_eq_some {α : Type} {n : Nat} {p : α → Bool} {t : Table α n} {i : Fin n} :
    t.lowest p = some i ↔ FirstAt t (fun a => p a = true) i := by
  simp only [Table.lowest, FirstAt, List.find?_eq_some_iff_append]
  constructor
  · rintro ⟨h, as, bs, hl, ha⟩
    refine ⟨h, fun j hj => ?_⟩
    have hp : (List.finRange n).Pairwise (· < ·) := List.pairwise_lt_finRange n
    rw [hl] at hp
    have hm : j ∈ as ++ i :: bs := hl ▸ List.mem_finRange j
    rcases List.mem_append.mp hm with hm | hm
    · simpa using ha j hm
    · rcases List.mem_cons.mp hm with rfl | hm
      · exact absurd hj (lt_irrefl _)
      · have := (List.pairwise_cons.mp (List.pairwise_append.mp hp).2.1).1 j hm
        exact absurd (lt_trans hj this) (lt_irrefl _)
  · rintro ⟨h, hlt⟩
    refine ⟨h, ?_⟩
    obtain ⟨as, bs, hl⟩ := List.append_of_mem (List.mem_finRange i)
    refine ⟨as, bs, hl, fun j hj => ?_⟩
    have hp : (List.finRange n).Pairwise (· < ·) := List.pairwise_lt_finRange n
    rw [hl] at hp
    have := (List.pairwise_append.mp hp).2.2 j hj i List.mem_cons_self
    simpa using hlt j this

theorem FirstAt.congr {α : Type} {n : Nat} {p q : α → Prop} (h : ∀ a, p a ↔ q a) {t : Table α n} {i : Fin n} :
    FirstAt t p i ↔ FirstAt t q i := by
  simp [FirstAt, h]

/-- Some position passes the test exactly when a first one does. -/
theorem lowest_isSome {α : Type} {n : Nat} {p : α → Bool} {t : Table α n} :
    (t.lowest p).isSome = true ↔ ∃ i, p (t.get i) = true := by
  rw [← not_iff_not, Bool.not_eq_true, Option.isSome_eq_false_iff, Option.isNone_iff_eq_none, Table.lowest_none]
  simp

@[simp] theorem isFree_entry {e : Entry} : e.isFree = true ↔ e = .free := by cases e <;> simp [Entry.isFree]
@[simp] theorem isFree_slot {x : Slot} : x.isFree = true ↔ x = .free := by cases x <;> simp [Slot.isFree]
@[simp] theorem isFree_ctx {x : Ctx} : x.isFree = true ↔ x = .free := by cases x <;> simp [Ctx.isFree]
@[simp] theorem isFree_fence {f : FenceRec} : f.isFree = true ↔ f = .free := by cases f <;> simp [FenceRec.isFree]
@[simp] theorem isFree_access {a : AccessRec} : a.isFree = true ↔ a = .free := by cases a <;> simp [AccessRec.isFree]
theorem isOpen_iff {x : Ctx} : x.isOpen = true ↔ ∃ o, x = .opened o := by cases x <;> simp [Ctx.isOpen]
theorem openOf_iff {p : Port} {x : Ctx} : x.openOf p = true ↔ ∃ o, x = .opened o ∧ o.port = p := by
  cases x <;> simp [Ctx.openOf]
theorem isPending_iff {e : Entry} : e.isPending = true ↔ ∃ c, e = .pending c := by cases e <;> simp [Entry.isPending]

/-! ## Acceptance -/

/-- An acceptance answered in the same event, on a state whose ports are those before it. -/
theorem accepted_place (p : Port) (tag : ReqTag) (a : Answer) {s t : State} (h : t.ports = s.ports) :
    accepted p tag (place p tag a t) =
      { t with ports := (answered s p tag a).ports, intakePtr := p + 1 } := by
  simp [accepted, place, answered, answeredPort, takenPort, State.setPort, State.port, h]

/-- What an acceptance command does when the intake grants a request that its row speaks of. -/
theorem whileRunning_acceptWhere {row : State → ReqBody → Bool} {s t : State} {p : Port} {tag : ReqTag} {b : ReqBody}
    (o : Offers s p tag b) (hr : row s b = true) (hp : present s p { tag := tag, body := b } = some t) :
    whileRunning s (acceptWhere row) = .next (accepted p tag t) := by
  simp [whileRunning, acceptWhere, o.running, o.grant, o.head, hr, hp]

/-! ## Counts -/

/-- States with FREE entries at the same indexes have one occupancy. -/
theorem occ_congr {s t : State} (h : ∀ i, (t.entry i).isFree = (s.entry i).isFree) : occupancy t = occupancy s :=
  Table.count_congr fun i => by
    have := h i
    simp only [State.entry] at this
    rw [this]

theorem occ_eq {s t : State} (h : t.entries = s.entries) : occupancy t = occupancy s := by simp [occupancy, h]

/-- Occupancy does not rise where FREE entries stay FREE. -/
theorem occ_mono {s t : State} (h : ∀ i, (s.entry i).isFree = true → (t.entry i).isFree = true) :
    occupancy t ≤ occupancy s := by
  refine Table.count_mono fun i hi => ?_
  have := h i
  simp only [State.entry] at this
  cases h2 : (s.entries.get i).isFree <;> simp_all

/-- What replacing one entry does to the occupancy. -/
theorem occ_setEntry (s : State) (i : EntryIx) (e : Entry) :
    occupancy (s.setEntry i e) + (if (s.entry i).isFree then 0 else 1) = occupancy s + (if e.isFree then 0 else 1) := by
  have := Table.count_set (fun e : Entry => !e.isFree) s.entries i e
  simp only [Bool.not_eq_true'] at this
  simp only [occupancy, State.setEntry_entries, State.entry]
  cases h1 : (s.entries.get i).isFree <;> cases h2 : e.isFree <;> simp_all

@[simp] theorem mapCommitted_isFree (f) (e : Entry) : (e.mapCommitted f).isFree = e.isFree := by cases e <;> rfl
@[simp] theorem dropReply_isFree (n) (e : Entry) : (e.dropReply n).isFree = e.isFree := by simp [Entry.dropReply]
@[simp] theorem tick_isFree (e : Entry) : e.tick.isFree = e.isFree := by cases e <;> rfl
@[simp] theorem commitMember_isFree (s) (e : Entry) : (commitMember s e).isFree = e.isFree := by cases e <;> rfl

/-! ## Entries -/

theorem entry_releaseEntries (l : List EntryIx) (s : State) (i : EntryIx) :
    (releaseEntries l s).entry i = if i ∈ l then .free else s.entry i := by
  simp [releaseEntries, State.entry]

theorem entry_unblock (g : List SlotIx) (s : State) (i : EntryIx) :
    (unblock g s).entry i = (s.entry i).mapCommitted fun c => { c with blockedBy := c.blockedBy.filter fun k => !g.contains k } := by
  simp [unblock, State.entry]

theorem entry_commitMembers (l : List EntryIx) (s : State) (i : EntryIx) :
    (commitMembers l s).entry i = if i ∈ l then commitMember s (s.entry i) else s.entry i := by
  simp [commitMembers, State.entry]

theorem entry_advance (s : State) (i : EntryIx) : (advanceTimers s).entry i = (s.entry i).tick := by
  simp [advanceTimers, State.entry]

/-- What a port reset does to an entry (R21, R8). -/
theorem entry_portReset (n : Port) (s : State) (i : EntryIx) :
    (portResetNow n s).entry i =
      (((if i ∈ membersOfPort s n then Entry.free else s.entry i).mapCommitted fun c =>
        { c with blockedBy := c.blockedBy.filter fun k => !(unissuedSlots s n).contains k }).dropReply n) := by
  simp only [portResetNow, State.entry, afterRelease_frame]
  simp [unblock, releaseEntries]

theorem entry_of_entries {s t : State} (h : t.entries = s.entries) (i : EntryIx) : t.entry i =
    s.entry i := by simp [State.entry, h]

/-! ## Contexts and fence records -/

theorem ctx_freeCtx (c : CtxIx) (s : State) (d : CtxIx) : (freeCtx c s).ctx d = if d = c then .free else
    (match (s.ctx c).laneOf?, (s.ctx c).rank? with
      | some (p, _), some .first => if (s.ctx d).ownedBy p then (s.ctx d).asFirst else s.ctx d
      | _, _ => s.ctx d) := by
  cases h1 : (s.ctx c).laneOf? with
  | none => simp only [freeCtx, h1, ctx_setCtx]
  | some q =>
    obtain ⟨p, l⟩ := q
    cases h2 : (s.ctx c).rank? with
    | none => simp only [freeCtx, h1, h2, ctx_setCtx]
    | some r =>
      cases r with
      | second => simp only [freeCtx, h1, h2, ctx_setCtx]
      | first =>
        simp only [freeCtx, h1, h2, State.ctx, Table.get_mapIx, Table.get_set]
        by_cases hd : d = c
        · simp [hd, Ctx.ownedBy, Ctx.laneOf?]
        · simp only [if_neg hd]

theorem fence_answerFence (s : State) (j k : FenceIx) : (answerFence s j).fence k = if k =
    j then .free else s.fence k := by
  unfold answerFence
  split
  · have : ∀ x : State, ∀ p tag a, (place p tag a x).fence k = x.fence k := by intro x p tag a; simp [State.fence]
    rw [this, fence_setFence]
  · rename_i hj
    split
    · subst k; exact hj
    · rfl

theorem fence_foldl (l : List FenceIx) (s : State) (k : FenceIx) : (l.foldl answerFence s).fence k =
    if k ∈ l then .free else s.fence k := by
  induction l generalizing s with
  | nil => simp
  | cons j l ih =>
    rw [List.foldl_cons, ih, fence_answerFence]
    by_cases h1 : k = j <;> by_cases h2 : k ∈ l <;> simp [h1, h2]

theorem mem_insertByAccepted (s : State) (j k : FenceIx) (l : List FenceIx) : k ∈ insertByAccepted s j l ↔ k =
    j ∨ k ∈ l := by
  induction l with
  | nil => simp [insertByAccepted]
  | cons a l ih =>
    unfold insertByAccepted
    split
    · simp
    · simp only [List.mem_cons, ih]; tauto

theorem mem_emptied (s : State) (k : FenceIx) : k ∈ emptiedFences s ↔ (s.fence k).isEmptied = true := by
  have : ∀ l : List FenceIx, k ∈ l.foldr (insertByAccepted s) [] ↔ k ∈ l := by
    intro l; induction l with
    | nil => simp
    | cons a l ih => rw [List.foldr_cons, mem_insertByAccepted, ih]; simp
  unfold emptiedFences; rw [this]; simp

theorem fence_answerEmptied (s : State) (k : FenceIx) : (answerEmptied s).fence k =
    if (s.fence k).isEmptied then .free else s.fence k := by
  unfold answerEmptied
  rw [fence_foldl]
  by_cases h : (s.fence k).isEmptied = true
  · rw [if_pos ((mem_emptied s k).mpr h), if_pos h]
  · rw [if_neg (fun h0 => h ((mem_emptied s k).mp h0)), if_neg h]

/-! ## What a choice of an owner says of the state -/

/-- A combining target passes the conditions of R10. -/
theorem combineTarget_some {s : State} {p cls ln i c} (h : combineTarget s p cls ln = some (i, c)) :
    s.entry i = .pending c ∧ c.line = ln ∧ c.cls = .post ∧ cls = .post ∧ (orderQueue s p).getLast? = some i ∧
      (lineChain s ln).getLast? = some i ∧ coveringSlots s ln = [] := by
  unfold combineTarget at h
  split at h
  · cases h
  · split at h
    · split at h
      · rename_i hh
        simp only [Option.some.injEq, Prod.mk.injEq] at h
        obtain ⟨rfl, rfl⟩ := h
        obtain ⟨h1, h2, h3, h4, h5⟩ := hh
        subst h4
        exact ⟨‹_›, rfl, h1, h2, ‹_›, h3, h5⟩
      · cases h
    · cases h

/-- The member that a member write overlays is one of the context, on the line (R68). -/
theorem memberOn_some {s : State} {o ln i m} (hm : memberOn s o ln = some (i, m)) : i ∈ o.members ∧ s.entry i =
    .member m ∧ m.line = ln := by
  simp only [memberOn] at hm
  obtain ⟨j, hjm, hj⟩ := List.exists_of_findSome?_eq_some hm
  split at hj
  · split at hj
    · simp only [Option.some.injEq, Prod.mk.injEq] at hj
      obtain ⟨rfl, rfl⟩ := hj; exact ⟨hjm, ‹_›, ‹_›⟩
    · cases hj
  · cases hj

/-- Without such a member no member of the context is on the line. -/
theorem memberOn_none {s : State} {o ln} (hm : memberOn s o ln = none) : ∀ i ∈ o.members, ∀ m, s.entry i =
    .member m → m.line ≠ ln := by
  intro i hi m he hl
  simp only [memberOn, List.findSome?_eq_none_iff] at hm
  have := hm i hi
  rw [he] at this
  simp [hl] at this

/-- A read candidate is a READY slot of its port (R49). -/
theorem readCandidate_ready {s : State} {p k} (h : readCandidate s p = some k) : ∃ r, s.slot k = .ready r ∧ r.port =
    p := by
  unfold readCandidate at h
  have gen : ∀ (l : List SlotIx) (b : Option SlotIx), (∀ x ∈ l, (s.slot x).readyOf p = true) → (∀ x, b = some x → (s.slot x).readyOf p = true) →
      ∀ x, (l.foldl (fun best k => match best with | none => some k | some b => if (s.slot k).seq < (s.slot b).seq then some k else some b) b) = some x → (s.slot x).readyOf p = true := by
    intro l
    induction l with
    | nil => intro b _ hb x hx; exact hb x hx
    | cons y l ih =>
      intro b hl hb
      refine ih _ (fun x hx => hl x (List.mem_cons_of_mem _ hx)) ?_
      intro x hx
      cases b with
      | none => simp only [Option.some.injEq] at hx; subst hx; exact hl _ List.mem_cons_self
      | some b =>
        dsimp only at hx
        split at hx
        · simp only [Option.some.injEq] at hx; subst hx; exact hl _ List.mem_cons_self
        · exact hb x hx
  have := gen _ none (fun x hx => by simpa using hx) (by simp) k h
  unfold Slot.readyOf at this
  split at this
  · rename_i r hr; exact ⟨r, hr, by simpa using this⟩
  · cases this

/-- What an eligible entry is (R34). -/
theorem eligible_some {s : State} {i} (h : eligible s i = true) : ∃ c, s.entry i = .pending c ∧ c.blockedBy = [] ∧
    olderIssued s (orderQueue s c.port) i = true ∧ (c.cls = .ordered → olderIssued s (orderedList s) i = true) ∧ heldByLine s c.line i = false := by
  unfold eligible at h
  split at h
  · rename_i c hc
    simp only [Bool.and_eq_true, Bool.or_eq_true, bne_iff_ne, ne_eq, Bool.not_eq_true', List.isEmpty_iff] at h
    refine ⟨c, hc, h.1.1.2, h.1.1.1.2, fun h0 => ?_, h.2⟩
    rcases h.1.2 with h1 | h1
    · exact absurd h0 h1
    · exact h1
  · cases h

theorem drainGrant_some {s : State} {g} (h : drainGrant s = some g) : ∃ p i, g.owner = .write i ∧
    drainCandidate s p = some i ∧
    g.arbiter.readRun = 0 := by
  unfold drainGrant at h
  split at h
  · cases h
  · simp only [Option.map_eq_some_iff] at h
    obtain ⟨i, hi, rfl⟩ := h
    exact ⟨_, i, rfl, hi, rfl⟩

theorem readGrant_some {s : State} {g} (h : readGrant s = some g) : ∃ p k, g.owner = .read k ∧ readCandidate s p =
    some k := by
  unfold readGrant at h
  split at h
  · cases h
  · simp only [Option.map_eq_some_iff] at h
    obtain ⟨i, hi, rfl⟩ := h
    exact ⟨_, i, rfl, hi⟩

/-- What the arbiter grants: an eligible entry, or a read candidate (R104). -/
theorem chosen_some {s : State} {g} (h : chosenGrant s = some g) :
    (∃ i, g.owner = .write i ∧ eligible s i = true) ∨ (∃ p k, g.owner = .read k ∧ readCandidate s p = some k) := by
  unfold chosenGrant at h
  split at h
  · obtain ⟨p, i, h1, h2, _⟩ := drainGrant_some h
    refine Or.inl ⟨i, h1, ?_⟩
    unfold drainCandidate at h2
    simpa using (Option.filter_eq_some_iff.mp h2).2
  · obtain ⟨p, k, h1, h2⟩ := readGrant_some h
    exact Or.inr ⟨p, k, h1, h2⟩

end Sys2Proof.Machine
end

