-- ==== Sys2Proof/Laws/Choices.lean ====
section
/-! SUPPORT. What the owners choose (lowest records, candidates, lanes, emptied fences) and how the words of the
statements read in the model's own functions. -/

namespace Sys2Proof.Machine

open Sys2Proof.Safety

/-! ## The lowest FREE record -/

/-- The first FREE record of each table is the lowest. -/
theorem lowest_slot {s : State} {k} (h : FirstAt s.slots (fun x => x = .free) k) : s.slots.lowest Slot.isFree =
    some k :=
  lowest_eq_some.mpr ((FirstAt.congr (fun _ => isFree_slot)).mpr h)

theorem lowest_entry {s : State} {k} (h : FirstAt s.entries (fun x => x = .free) k) :
    s.entries.lowest Entry.isFree = some k :=
  lowest_eq_some.mpr ((FirstAt.congr (fun _ => isFree_entry)).mpr h)

theorem lowest_ctx {s : State} {k} (h : FirstAt s.contexts (fun x => x = .free) k) : s.contexts.lowest Ctx.isFree =
    some k :=
  lowest_eq_some.mpr ((FirstAt.congr (fun _ => isFree_ctx)).mpr h)

theorem lowest_fence {s : State} {k} (h : FirstAt s.fences (fun x => x = .free) k) :
    s.fences.lowest FenceRec.isFree = some k :=
  lowest_eq_some.mpr ((FirstAt.congr (fun _ => isFree_fence)).mpr h)

theorem lowest_access {s : State} {k} (h : FirstAt s.accesses (fun x => x = .free) k) :
    s.accesses.lowest AccessRec.isFree = some k :=
  lowest_eq_some.mpr ((FirstAt.congr (fun _ => isFree_access)).mpr h)

/-! ## The frame of a command, stores and their results -/

/-- A command that takes place only while RST_N is not asserted, where it is not. -/
theorem whileRunning_of {s : State} (hs : s.inReset = false) (f : State → State) : whileRunning s f =
    .next (f s) := by simp [whileRunning, hs]

/-- A checked store with its last result. -/
theorem recordResult_storeIf {b : Bool} {p : Prop} [Decidable p] (h : b = true ↔ p) (ix) (s t : State) :
    recordResult ix (storeIf b s t) = storedIf p s t ix := by
  by_cases hp : p
  · simp [storeIf, storedIf, hp, h.mpr hp, recordResult, written]
  · have : b = false := by cases b with
      | false => rfl
      | true => exact absurd (h.mp rfl) hp
    simp [storeIf, storedIf, hp, this, recordResult, written]

/-- A base aligned to its size. -/
theorem aligned_iff {b : Addr} {e : Nat} : aligned b e = true ↔ b.toNat % 2 ^ e = 0 := by simp [aligned]

/-- No context is OPEN. -/
theorem anyOpen_iff {s : State} : anyOpen s = false ↔ ∀ c o, s.ctx c ≠ .opened o := by
  simp only [anyOpen, bne_eq_false_iff_eq, Table.count_eq_zero]
  constructor
  · intro h c o hc
    have := h c; rw [show s.contexts.get c = .opened o from hc] at this; cases this
  · intro h c
    have := h c
    cases hx : s.contexts.get c with
    | opened o => exact absurd hx (this o)
    | free => rfl
    | aborted _ _ _ _ => rfl

/-! ## Reads and slots -/

/-- A length that fits the line passes the span check. -/
theorem spanFails_of {addr : Addr} {len} (h1 : 1 ≤ len) (h2 : addr.toNat % 32 + len ≤ 32) : spanFails addr len =
    false := by
  simp only [spanFails, lineOffset, Bool.or_eq_false_iff, beq_eq_false_iff_ne, decide_eq_false_iff_not]
  have : len ≤ 32 := by omega
  refine ⟨⟨?_, ?_⟩, ?_⟩
  · omega
  · simpa using this
  · exact decide_eq_false (by omega)

/-- A snapshot covers every byte exactly when no item is absent. -/
theorem fullyCovered_iff {l : List (Option Byte)} : fullyCovered l = true ↔ none ∉ l := by
  simp only [fullyCovered, List.all_eq_true]
  constructor
  · intro h hn; exact absurd (h _ hn) (by simp)
  · intro h x hx; cases x with
    | none => exact absurd hx h
    | some => rfl

/-- A search of the items of a table finds the first that passes. -/
theorem find_of_firstAt {α : Type} {n : Nat} (t : Table α n) (f : α → Bool) (i : Fin n) (h : FirstAt t (fun a => f a = true) i) : t.items.find? f = some (t.get i) := by
  have := lowest_eq_some.mpr h
  rw [Table.items_eq, List.find?_map]
  unfold Table.lowest at this
  rw [show (f ∘ t.get) = fun i => f (t.get i) from rfl, this]; rfl

/-- The reads of WAITING and READY slots. -/
theorem unissued_eq_some {x : Slot} {r : ReadRec} : x.unissued? = some r ↔ x = .waiting r ∨ x = .ready r := by
  cases x <;> simp [Slot.unissued?]

/-- The slots that cover a line (R8). -/
theorem mem_coveringSlots {s : State} {line k} : k ∈ coveringSlots s line ↔ ∃ r, Unissued s k r ∧ lineOf r.addr =
    line := by
  simp only [coveringSlots, Table.mem_positions, Slot.covers, Option.any_eq_true, Unissued, ← unissued_eq_some, State.slot]
  simp

/-- The read candidate has the lowest sequence of the port's READY slots (R49). -/
theorem readCandidate_lowest {s : State} {p k} : readCandidate s p = some k → ∃ r, s.slot k = .ready r ∧ r.port =
    p ∧ ∀ j q, s.slot j = .ready q → q.port = p → r.seq ≤ q.seq := by
  intro h
  obtain ⟨r, hr, hp⟩ := readCandidate_ready h
  refine ⟨r, hr, hp, fun j q hj hq => ?_⟩
  have gen : ∀ (l : List SlotIx) (b : Option SlotIx) (k : SlotIx),
      (l.foldl (fun best k => match best with | none => some k | some b => if (s.slot k).seq < (s.slot b).seq then some k else some b) b) = some k →
      (∀ x, b = some x → (s.slot k).seq ≤ (s.slot x).seq) ∧ ∀ x ∈ l, (s.slot k).seq ≤ (s.slot x).seq := by
    intro l
    induction l with
    | nil => intro b k h; simp at h; subst h; simp
    | cons y l ih =>
      intro b k h
      rw [List.foldl_cons] at h
      have := ih _ _ h
      cases b with
      | none => simp at this ⊢; exact this
      | some b =>
        dsimp only at this
        split at this
        · rename_i hlt; simp only [Option.some.injEq, forall_eq', List.mem_cons, forall_eq_or_imp] at this ⊢; exact ⟨by omega, this.1, this.2⟩
        · rename_i hlt; simp only [Option.some.injEq, forall_eq', List.mem_cons, forall_eq_or_imp] at this ⊢; exact ⟨this.1, by omega, this.2⟩
  have := (gen _ _ k h).2 j (by simp [Slot.readyOf, State.slot] at hj ⊢; rw [hj]; simpa using hq)
  rw [hr, hj] at this; simpa [Slot.seq] using this

/-- A port has no read candidate without a READY slot. -/
theorem readCandidate_eq_none {s : State} {p} : readCandidate s p = none ↔ ∀ k r, s.slot k =
    .ready r → r.port ≠ p := by
  have gen : ∀ (l : List SlotIx) (b : Option SlotIx),
      (l.foldl (fun best k => match best with | none => some k | some b => if (s.slot k).seq < (s.slot b).seq then some k else some b) b) = none ↔ b = none ∧ l = [] := by
    intro l
    induction l with
    | nil => intro b; simp
    | cons y l ih =>
      intro b; rw [List.foldl_cons, ih]
      cases b with
      | none => simp
      | some b => dsimp only; split <;> simp
  unfold readCandidate
  refine (gen _ none).trans ?_
  simp only [true_and, Table.positions, List.filter_eq_nil_iff]
  constructor
  · intro h k r hk hp
    refine h k (List.mem_finRange k) ?_
    rw [show s.slots.get k = .ready r from hk]; simp [Slot.readyOf, hp]
  · intro h k _
    cases hk : s.slots.get k with
    | ready r => simpa [Slot.readyOf] using h k r hk
    | _ => simp [Slot.readyOf]

/-! ## Lanes, members and releases -/

/-- A WRITE with a mask is granted in PASS and RUN only (R128). -/
theorem offered_write_mode {s : State} {p tag addr lane mask data} (o : Offers s p tag (.write addr lane mask data)) (hm : mask ≠ 0) : ¬ (s.mode = .quiescing ∨ s.mode = .quiesced) := by
    intro hq
    have g := o.grant
    have h2 := List.find?_some g
    simp only [takeable, o.head, Option.any_some, present, writePresented] at h2
    rw [if_neg (by simpa [emptyFails] using hm), if_pos hq] at h2
    simp at h2

/-- The context found on a lane, where a lane has at most one (R64). -/
theorem contextOn_of_lane {s : State} (h : LanesAndRanks s) {p l c} (hc : (s.ctx c).laneOf? = some (p, l)) :
    contextOn s p l = some c := by
  refine lowest_eq_some.mpr ⟨by simpa using hc, fun j hj hh => ?_⟩
  have hj' : (s.ctx j).laneOf? = some (p, l) := by simpa using hh
  have := h.lane j c (by rw [hc, hj']) (by rw [hj']; simp)
  subst this; exact lt_irrefl _ hj

/-- No context stands on the lane. -/
theorem contextOn_eq_none {s : State} {p l} : contextOn s p l = none ↔ ∀ c, (s.ctx c).laneOf? ≠ some (p, l) := by
  rw [contextOn, Table.lowest_none]; simp [State.ctx]

/-- The context of an OPEN lane is the one found on it. -/
theorem openLane_context {s p l c o} (h : OpenLane s p l c o) : contextOn s p l = some c := by
  obtain ⟨_, h1, h2, rfl, rfl⟩ := h
  exact contextOn_of_lane h1 (by rw [h2]; rfl)

/-- The member on a line, where a list holds at most one per line (R73). -/
theorem memberOn_eq {s o line i m} (hE : EntriesExact s) {c} (hc : s.ctx c =
    .opened o) (hi : i ∈ o.members) (he : s.entry i = .member m) (hl : m.line = line) : memberOn s o line =
    some (i, m) := by
  cases h : memberOn s o line with
  | none => exact absurd hl (memberOn_none h i hi m he)
  | some x =>
    obtain ⟨j, n⟩ := x
    obtain ⟨h1, h2, h3⟩ := memberOn_some h
    have := hE.2.lines c o hc i hi j h1 m n he h2 (by rw [hl, h3])
    subst this
    rw [he] at h2; cases h2; rfl

/-- No member of the list is on the line. -/
theorem memberOn_eq_none {s o line} (h : ∀ j ∈ o.members, ∀ m, s.entry j = .member m → m.line ≠ line) :
    memberOn s o line = none := by
  cases hh : memberOn s o line with
  | none => rfl
  | some x => obtain ⟨h1, h2, h3⟩ := memberOn_some hh; exact absurd h3 (h _ h1 _ h2)

/-- A granted member write with a mask goes to the bundle table. -/
theorem memberWrite_presented {s : State} {p : Port} {tag : ReqTag} {l addr mask data} (o : Offers s p tag (.write addr (some l) mask data)) (hm : mask ≠ 0) :
    present s p ⟨tag, .write addr (some l) mask data⟩ = memberWritePresented s p tag l addr mask data := by
  have hq := offered_write_mode o hm
  simp only [present, writePresented]
  rw [if_neg (by simpa [emptyFails] using hm), if_neg hq]

/-- What the end of a release does to the mode and the mode event flag. -/
theorem afterRelease_modeFollows (s u : State) (hm : u.mode = s.mode) (he : u.modeEvent = s.modeEvent) :
    ModeFollows s (afterRelease u) := by
  have ho : occupancy (afterRelease u) = occupancy u := by rw [occupancy, occupancy]; simp
  constructor
  · intro h1 h2
    rw [ho] at h2
    have h2' : occupancy (evalPressure u) = 0 := h2
    simp [afterRelease, reachQuiesced, hm, h1, h2']
  · intro h
    rw [ho] at h
    have h' : ¬ ((evalPressure u).mode = .quiescing ∧ occupancy (evalPressure u) = 0) := by rw [show (evalPressure u).mode = s.mode from hm]; exact h
    simp only [afterRelease, reachQuiesced, if_neg h']; exact ⟨hm, he⟩

/-- What it does to the pressure flag. -/
theorem afterRelease_pressure (s u : State) (hp : u.pressure = s.pressure) (hc : u.config = s.config) :
    (afterRelease u).pressure = pressureAt s (occupancy (afterRelease u)) := by
  have ho : occupancy (afterRelease u) = occupancy u := by rw [occupancy, occupancy]; simp
  rw [ho]
  have : (afterRelease u).pressure = pressureAfter u := by unfold afterRelease reachQuiesced; split <;> rfl
  rw [this, pressureAfter, pressureAt, hp, hc]

/-- It changes nothing else. -/
theorem afterRelease_eq (u : State) : afterRelease u = { u with pressure := (afterRelease u).pressure, mode := (afterRelease u).mode, modeEvent := (afterRelease u).modeEvent } := by
  unfold afterRelease reachQuiesced; split <;> rfl

/-! ## Fences and due-ness -/

/-- The entry lies in some wait set. -/
theorem inWaitSet_iff {s : State} {i} : inWaitSet s i = true ↔ ∃ j w, s.fence j = .waiting w ∧ i ∈ w.waitSet := by
  simp only [inWaitSet, List.any_eq_true, Table.mem_items]
  constructor
  · rintro ⟨f, ⟨j, rfl⟩, h⟩
    cases hj : s.fences.get j with
    | free => rw [hj] at h; cases h
    | waiting w => rw [hj] at h; exact ⟨j, w, hj, by simpa using h⟩
  · rintro ⟨j, w, hj, h⟩
    refine ⟨_, ⟨j, rfl⟩, ?_⟩
    rw [show s.fences.get j = .waiting w from hj]; simpa using h

/-- The own causes of R30. -/
theorem ownCause_iff {s : State} {i c} : ownCause s i c = true ↔ OwnCause s i c := by
  simp only [ownCause, OwnCause, Bool.or_eq_true, decide_eq_true_eq, inWaitSet_iff, beq_iff_eq, bne_iff_ne]
  cases c.cls <;> simp [or_assoc]

/-- PENDING, and due by an own cause. -/
theorem dueByOwn_iff {s : State} {j} : dueByOwn s j = true ↔ ∃ d, s.entry j = .pending d ∧ OwnCause s j d := by
  unfold dueByOwn
  cases h : s.entry j <;> simp [ownCause_iff]

/-- A record inserted by acceptance order keeps that order. -/
theorem insertByAccepted_sorted (s : State) (j) (l : List FenceIx) (h : l.Pairwise fun a b => (s.fence a).acceptedOrder ≤ (s.fence b).acceptedOrder) :
    (insertByAccepted s j l).Pairwise fun a b => (s.fence a).acceptedOrder ≤ (s.fence b).acceptedOrder := by
  induction l with
  | nil => simp [insertByAccepted]
  | cons a l ih =>
    unfold insertByAccepted
    rw [List.pairwise_cons] at h
    split
    · rename_i hle
      rw [List.pairwise_cons]
      refine ⟨fun b hb => ?_, List.pairwise_cons.mpr h⟩
      rcases List.mem_cons.mp hb with rfl | hb
      · exact hle
      · exact le_trans hle (h.1 b hb)
    · rename_i hle
      rw [List.pairwise_cons]
      refine ⟨fun b hb => ?_, ih h.2⟩
      rcases (mem_insertByAccepted s j b l).mp hb with rfl | hb
      · omega
      · exact h.1 b hb

/-- The emptied records are answered in acceptance order (R93). -/
theorem emptiedFences_sorted (s : State) : (emptiedFences s).Pairwise fun a b => (s.fence a).acceptedOrder ≤ (s.fence b).acceptedOrder := by
  unfold emptiedFences
  generalize s.fences.positions FenceRec.isEmptied = l
  induction l with
  | nil => simp
  | cons a l ih => exact insertByAccepted_sorted s a _ ih

/-- Each emptied record is answered once. -/
theorem emptiedFences_nodup (s : State) : (emptiedFences s).Nodup := by
  have h := Table.nodup_positions FenceRec.isEmptied s.fences
  unfold emptiedFences
  have perm : ∀ l : List FenceIx, (l.foldr (insertByAccepted s) []).Perm l := by
    intro l
    induction l with
    | nil => exact .refl _
    | cons a l ih =>
      rw [List.foldr_cons]
      have : ∀ m, (insertByAccepted s a m).Perm (a :: m) := by
        intro m; induction m with
        | nil => exact .refl _
        | cons b m ihm =>
          unfold insertByAccepted
          split
          · exact .refl _
          · exact (ihm.cons b).trans (.swap a b m)
      exact (this _).trans (ih.cons a)
  exact (perm _).nodup_iff.mpr h

/-- What the answers of a list of records do to a port. -/
theorem port_foldl_answerFence (l : List FenceIx) (s : State) (hn : l.Nodup) (p : Port) :
    (l.foldl answerFence s).port p = { s.port p with queue := (s.port p).queue ++ l.filterMap fun j => match s.fence j with
    | .free => none
    | .waiting w => if w.port = p then some { tag := w.tag, answer := fenceAnswer w.faultSeen } else none } := by
  induction l generalizing s with
  | nil => simp
  | cons j l ih =>
    rw [List.nodup_cons] at hn
    rw [List.foldl_cons, ih _ hn.2]
    have hf : ∀ k ∈ l, (answerFence s j).fence k = s.fence k := by
      intro k hk; rw [fence_answerFence, if_neg]; rintro rfl; exact hn.1 hk
    have : (l.filterMap fun k => match (answerFence s j).fence k with | .free => none | .waiting w => if w.port = p then some ({ tag := w.tag, answer := fenceAnswer w.faultSeen } : Response) else none)
        = l.filterMap fun k => match s.fence k with | .free => none | .waiting w => if w.port = p then some ({ tag := w.tag, answer := fenceAnswer w.faultSeen } : Response) else none := by
      apply List.filterMap_congr; intro k hk; rw [hf k hk]
    rw [this, List.filterMap_cons]
    unfold answerFence
    cases hj : s.fence j with
    | free => simp
    | waiting w =>
      simp only [place, State.setPort, State.setFence, State.port, Table.get_set]
      by_cases hp : p = w.port
      · subst hp; simp
      · simp [hp, Ne.symm hp]

/-! ## Places in a list -/

/-- Every entry of a list stands in it. -/
theorem stands_of_mem {l : List EntryIx} {i} (h : i ∈ l) : Stands l i (olderIn l i) (youngerIn l i) := by
  unfold Stands olderIn youngerIn
  induction l with
  | nil => cases h
  | cons a l ih =>
    by_cases ha : a = i
    · subst ha; simp
    · rcases List.mem_cons.mp h with rfl | h
      · exact absurd rfl ha
      · have hb : (a != i) = true := by simpa using ha
        rw [List.takeWhile_cons_of_pos (p := fun j => j != i) hb, List.dropWhile_cons_of_pos (p := fun j => j != i) hb]
        rw [List.cons_append, ← ih h]

/-- The entries before and behind the first occurrence. -/
theorem stands_first {l : List EntryIx} {i a b} (h : Stands l i a b) (hn : i ∉ a) : olderIn l i = a ∧
    youngerIn l i = b := by
  unfold Stands at h; subst h
  unfold olderIn youngerIn
  have h1 : ∀ j ∈ a, (j != i) = true := by intro j hj; simp; rintro rfl; exact hn hj
  rw [List.takeWhile_append_of_pos h1, List.dropWhile_append_of_pos h1]
  simp

/-- A view of the commit order holds no entry twice. -/
theorem committedView_nodup {s : State} (h : EntriesExact s) (f) : (committedView s f).Nodup := h.1.1.filter _

/-- The entries of a view. -/
theorem mem_committedView {s : State} (h : EntriesExact s) {f i} : i ∈ committedView s f ↔
    ∃ c, (s.entry i).committed? = some c ∧ f c = true := by
  simp only [committedView, List.mem_filter, Entry.committedWith, Option.any_eq_true]
  constructor
  · rintro ⟨_, x, hx, h⟩; exact ⟨x, hx, h⟩
  · rintro ⟨x, hx, h2⟩; exact ⟨(h.1.2 i).mpr (by rw [hx]; rfl), x, hx, h2⟩

/-- In a list without repetition, an entry stands in one place. -/
theorem stands_older {l : List EntryIx} {i} (hn : l.Nodup) (hm : i ∈ l) (P : List EntryIx → Prop) :
    (∀ a b, Stands l i a b → P a) ↔ P (olderIn l i) := by
  constructor
  · intro h; exact h _ _ (stands_of_mem hm)
  · intro h a b hs
    have : i ∉ a := by
      rw [hs] at hn
      intro ha
      exact (List.nodup_append.mp hn).2.2 i ha i (by simp) rfl
    rw [← (stands_first hs this).1]; exact h

/-- A view after entries committed at the end, the older entries as they were. -/
theorem committedView_append {s t : State} {l : List EntryIx} (f)
    (h : t.commitOrder = s.commitOrder ++ l) (h2 : ∀ i ∈ s.commitOrder, t.entry i = s.entry i) :
    committedView t f = committedView s f ++ l.filter fun i => (t.entry i).committedWith f := by
  unfold committedView
  rw [h, List.filter_append]
  congr 1
  apply List.filter_congr; intro i hi; rw [h2 i hi]

/-- A view after an entry left the commit order, the others as they were. -/
theorem committedView_without {s t : State} {i : EntryIx} (f)
    (h : t.commitOrder = s.commitOrder.filter fun j => j != i) (h2 : ∀ j, j ≠ i → t.entry j = s.entry j) :
    committedView t f = (committedView s f).filter fun j => j != i := by
  unfold committedView
  rw [h, List.filter_filter, List.filter_filter]
  apply List.filter_congr; intro j hj
  by_cases hji : j = i
  · simp [hji]
  · simp [h2 j hji, Bool.and_comm]

end Sys2Proof.Machine
end

