-- ==== Sys2Proof/Laws/Steps.lean ====
section
/-! SUPPORT. What a step can do, said once: a predicate that the events below keep is kept by every step. -/

namespace Sys2Proof.Machine

/-- The predicate is kept by each event of the part that a step is made of. -/
structure Kept (I : State → Prop) : Prop where
  accept : ∀ s p r t, I s → granted s = some p → (s.port p).head = some r → present s p r = some t →
    I (accepted p r.tag t)
  head : ∀ s n tag b, I s → (s.port n).head = none → I (headArrives n tag b s)
  deliver : ∀ s n, I s → I (deliver n s)
  issue : ∀ s t g, I s → s.accesses.lowest AccessRec.isFree = some t → chosenGrant s = some g → I (issueGrant g t s)
  response : ∀ s t st d, I s → I (responseArrives t st d s)
  expire : ∀ s t, I s → I (expireAccess t s)
  abort : ∀ s c reason, I s → I (abortCtx c reason s)
  advance : ∀ s, I s → I (advanceTimers s)
  portReset : ∀ s n, I s → I (portResetNow n s)
  held : ∀ s n b, I s → I (setHeld n b s)
  deviceReset : ∀ s, I s → I (deviceResetNow s)
  released : ∀ s strap, I s → I { s with inReset := false, divider := 0, link := { s.link with strap := strap } }
  link : ∀ s l, I s → I { s with link := l }
  freeCount : ∀ s n, I s → I { s with freeCount := n }
  divider : ∀ s n, I s → I { s with divider := n }
  queue : ∀ s q, I s → I { s with pending := q }
  enable : ∀ s, I s → I (takeEnable s).1
  quiesce : ∀ s, I s → I (takeQuiesce s).1
  resume : ∀ s, I s → I (takeResume s).1
  disable : ∀ s, I s → I (takeDisable s).1
  pop : ∀ s, I s → I (takeFaultPop s).1
  clear : ∀ s, I s → I (clearAllFlags s)
  tags : ∀ s, I s → I (releaseAllTags s)
  config : ∀ s i v, I s → I (writeConfig i v s).1
  window : ∀ s w part v, I s → I (writeWindow w part v s).1

namespace Kept

variable {I : State → Prop}

theorem acceptWhere (k : Kept I) (row : State → ReqBody → Bool) {s : State} (h : I s) : I (acceptWhere row s) := by
  unfold Machine.acceptWhere
  split
  · exact h
  · split
    · exact h
    · split
      · split
        · exact k.accept _ _ _ _ h ‹_› ‹_› ‹_›
        · exact h
      · exact h

theorem idle (k : Kept I) (c : CtxIx) {s : State} (h : I s) : I (expireIdle c s) := by
  unfold expireIdle; split
  · exact k.abort _ _ _ h
  · exact h

theorem busAndIdles (k : Kept I) {s : State} (h : I s) : I (expireBusAndIdles s) := by
  have fold : ∀ (l : List CtxIx) (s : State), I s → I (l.foldl (fun t c => expireIdle c t) s) := by
    intro l
    induction l with
    | nil => exact fun _ h => h
    | cons c l ih => exact fun s h => ih _ (k.idle c h)
  refine fold _ _ ?_
  unfold expireBus linkReset; split
  · exact k.link _ _ h
  · exact h

theorem accesses (k : Kept I) (n : Nat) {s : State} (h : I s) : I (expireAccesses n s) := by
  induction n generalizing s with
  | zero => exact h
  | succ n ih =>
    unfold expireAccesses
    split
    · exact h
    · exact k.expire _ _ h
    · exact ih (k.freeCount _ _ (k.expire _ _ h))

theorem tick (k : Kept I) {s : State} (h : I s) : I (tickNow s) :=
  k.accesses _ (k.busAndIdles (k.advance _ h))

theorem tickTimingOut (k : Kept I) (t : AccessTag) {s : State} (h : I s) : I (tickTimingOut t s) :=
  k.accesses _ (k.expire _ _ (k.busAndIdles (k.advance _ h)))

/-- A command that is a tick where an expiry is due, and nothing elsewhere. -/
theorem due {b : Bool} {s t : State} (h : I s) (ht : I t) : I (if b then t else s) := by
  cases b
  · exact h
  · exact ht

theorem period (k : Kept I) {s : State} (h : I s) : I (clkPeriod s) := by
  unfold clkPeriod; split
  · exact k.divider _ _ h
  · exact k.tick h

theorem abortAll (k : Kept I) {s : State} (h : I s) : I (abortAllBundles s) := by
  unfold abortAllBundles
  generalize s.contexts.positions Ctx.isOpen = l
  induction l generalizing s with
  | nil => exact h
  | cons c l ih => exact ih (k.abort _ _ _ h)

theorem result (k : Kept I) (x : BitVec 16) {w : Written} (h : I w.1) : I (recordResult x w) := k.link _ _ h

theorem command (k : Kept I) (c : LinkCommand) {s : State} (h : I s) : I (takeCommand c s).1 := by
  cases c with
  | enable => exact k.enable _ h
  | quiesce => exact k.quiesce _ h
  | resume => exact k.resume _ h
  | disable => exact k.disable _ h
  | abortBundles => exact k.abortAll h
  | portReset n => exact k.portReset _ n h
  | faultPop => exact k.pop _ h
  | clearFlags => exact k.clear _ h
  | releaseTags => exact k.tags _ h

theorem commandEvent (k : Kept I) (c : LinkCommand) {s : State} (h : I s) : I (commandEvent c s) :=
  k.result _ (k.command c h)

theorem objectWrite (k : Kept I) (x : BitVec 16) (v : Word) {s : State} (h : I s) : I (objectWriteEvent x v s) := by
  refine k.result _ ?_
  unfold offerValue
  split
  · split
    · exact k.command _ h
    · exact h
  · exact k.config _ _ _ h
  · exact k.window _ _ _ _ h
  · exact h

theorem dataByte (k : Kept I) (b : Byte) {s : State} (h : I s) : I (dataByte b s) := by
  unfold Machine.dataByte advanceIndex State.setFrame
  split
  · exact k.link _ _ (k.link _ _ (k.objectWrite _ _ h))
  · exact k.link _ _ h
  · exact h

theorem sendByte (k : Kept I) (a : Bool) {s : State} (h : I s) : I (sendByte a s) := by
  unfold Machine.sendByte advanceIndex State.setFrame
  split
  · exact k.link _ _ h
  · split
    · exact k.link _ _ h
    · exact k.link _ _ (k.link _ _ h)
  · exact h

/-- A command that takes place while the part runs. -/
theorem running (_k : Kept I) {s t : State} {f : State → State} (h : I s) (hf : I (f s))
    (e : whileRunning s f = .next t) : I t := by
  simp only [whileRunning, Host.Outcome.next.injEq] at e
  subst e
  split
  · exact h
  · exact hf

/-- Every command keeps the predicate. -/
theorem exec (k : Kept I) {c : Instr} {s t : State} (h : I s) (e : exec c s = .next t) : I t := by
  have cfg : ∀ (i : ConfigItem) (x : BitVec 16) (v : Word), I (recordResult x (writeConfig i v s)) :=
    fun i x v => k.result _ (k.config s i v h)
  cases c with
  | headRequest n kind tag addr len lane mask data =>
    refine k.running h ?_ e
    split
    · rename_i hn
      simp only [takesRequest, Bool.and_eq_true, Option.isNone_iff_eq_none] at hn
      exact k.head _ _ _ _ h hn.2
    · exact h
  | forwardedRead => exact k.running h (k.acceptWhere _ h) e
  | orderedRead => exact k.running h (k.acceptWhere _ h) e
  | plainWrite => exact k.running h (k.acceptWhere _ h) e
  | memberWrite => exact k.running h (k.acceptWhere _ h) e
  | fencePort => exact k.running h (k.acceptWhere _ h) e
  | fenceAll => exact k.running h (k.acceptWhere _ h) e
  | bOpen => exact k.running h (k.acceptWhere _ h) e
  | bClose => exact k.running h (k.acceptWhere _ h) e
  | bCancel => exact k.running h (k.acceptWhere _ h) e
  | responseDelivery n => exact k.running h (k.deliver _ _ h) e
  | issue =>
    refine k.running h ?_ e
    unfold issueNow
    split
    · exact k.issue _ _ _ h ‹_› ‹_›
    · exact h
  | memoryResponse t st d => exact k.running h (k.response _ _ _ _ h) e
  | tick => exact k.running h (k.tick h) e
  | ageReached i => exact k.running (f := fun s => s) h h e
  | idleExpiry c => exact k.running h (due h (k.tick h)) e
  | accessTimeout t => exact k.running h (due h (k.tickTimingOut t h)) e
  | prstAssert n =>
    simp only [Machine.exec, execPrstAssert, Host.Outcome.next.injEq] at e
    subst e
    split
    · exact k.held _ _ _ h
    · exact k.held _ _ _ (k.portReset _ _ h)
  | prstRelease n =>
    simp only [Machine.exec, execPrstRelease, Host.Outcome.next.injEq] at e
    subst e
    exact k.held _ _ _ h
  | deviceReset =>
    simp only [Machine.exec, execDeviceReset, Host.Outcome.next.injEq] at e
    subst e
    exact k.deviceReset _ h
  | deviceResetRelease strap =>
    simp only [Machine.exec, execDeviceResetRelease, Host.Outcome.next.injEq] at e
    subst e
    split
    · exact k.released _ _ h
    · exact h
  | linkStart b =>
    refine k.running h ?_ e
    unfold startFrame linkReset State.setFrame
    split
    · exact k.link _ _ (k.link _ _ h)
    · exact k.link _ _ h
  | linkIndexByte b =>
    refine k.running h ?_ e
    unfold indexByte State.setFrame
    split
    · exact k.link _ _ h
    · exact k.link _ _ h
    · exact h
  | linkDataByte b => exact k.running h (k.dataByte b h) e
  | linkReadByte a => exact k.running h (k.sendByte a h) e
  | linkStop => exact k.running h (k.link _ _ h) e
  | busTimeout => exact k.running h (due h (k.tick h)) e
  | enable => exact k.running h (k.commandEvent _ h) e
  | quiesce => exact k.running h (k.commandEvent _ h) e
  | resume => exact k.running h (k.commandEvent _ h) e
  | disable => exact k.running h (k.commandEvent _ h) e
  | abortBundles => exact k.running h (k.commandEvent _ h) e
  | portReset n => exact k.running h (k.commandEvent _ h) e
  | faultPop => exact k.running h (k.commandEvent _ h) e
  | clearFlags => exact k.running h (k.commandEvent _ h) e
  | releaseTags => exact k.running h (k.commandEvent _ h) e
  | highMark v => exact k.running (f := fun s => recordResult _ (writeHighMark v s)) h (cfg .highMark _ v) e
  | lowMark v => exact k.running (f := fun s => recordResult _ (writeLowMark v s)) h (cfg .lowMark _ v) e
  | ageLimit v => exact k.running (f := fun s => recordResult _ (writeAgeLimit v s)) h (cfg .ageLimit _ v) e
  | idleLimit v => exact k.running (f := fun s => recordResult _ (writeIdleLimit v s)) h (cfg .idleLimit _ v) e
  | memTimeout v => exact k.running (f := fun s => recordResult _ (writeMemTimeout v s)) h (cfg .memTimeout _ v) e
  | tbdiv v => exact k.running (f := fun s => recordResult _ (writeTbdiv v s)) h (cfg .tbdiv _ v) e
  | alertMask v => exact k.running (f := fun s => recordResult _ (writeAlertMask v s)) h (cfg .alertMask _ v) e
  | windowObject w part v => exact k.running (f := fun s => recordResult _ (writeWindow w part v s)) h (k.result _ (k.window s w part v h)) e
  | objectWrite x v => exact k.running h (k.objectWrite x v h) e
  | sclEdge g =>
    refine k.running h ?_ e
    unfold sclEdgeNow
    (repeat' split) <;> exact k.link _ _ h

/-- Every step keeps the predicate. -/
theorem step (k : Kept I) {s t : State} (h : I s) (e : step s = .next t) : I t := by
  unfold Machine.step at e
  split at e
  · exact k.exec (k.queue _ _ h) e
  · exact k.running h (k.period h) e

end Kept

end Sys2Proof.Machine
end

