-- ==== Sys2Proof/Laws/Ticks.lean ====
section
/-! SUPPORT. What a tick does, event by event: which expiries it takes, and that each leaves the others as they were. -/

namespace Sys2Proof.Machine

open Sys2Proof.Safety

/-! ## The count of free values is carried along, and read by no end of an access -/

/-- A report does not read the count. -/
theorem reportEnd_freeCount (c : Committed) (e : AccessEnd) (s : State) (k : Nat) :
    reportEnd c e { s with freeCount := k } =
    { reportEnd c e s with freeCount := k } := by
  have pf : ∀ kind, reportPosted c kind { s with freeCount := k } = { reportPosted c kind s with freeCount := k } := by
    intro kind; unfold reportPosted setPortFault recordFault; dsimp only; split <;> rfl
  have th : ∀ a, answerThrough c a { s with freeCount := k } = { answerThrough c a s with freeCount := k } := by
    intro a; unfold answerThrough; split <;> rfl
  cases hc : c.cls <;> cases e <;> simp only [reportEnd, hc, pf, th]

/-- The answers of emptied fences do not read the count. -/
theorem answerEmptied_freeCount (s : State) (k : Nat) :
    answerEmptied { s with freeCount := k } = { answerEmptied s with freeCount := k } := by
  have one : ∀ (s : State) j, answerFence { s with freeCount := k } j = { answerFence s j with freeCount := k } := by
    intro s j
    have h' : ({ s with freeCount := k } : State).fence j = s.fence j := rfl
    unfold answerFence; rw [h']; cases s.fence j <;> rfl
  have : ∀ (l : List FenceIx) (s : State),
      l.foldl answerFence { s with freeCount := k } = { l.foldl answerFence s with freeCount := k } := by
    intro l; induction l with
    | nil => exact fun _ => rfl
    | cons a l ih => intro s; rw [List.foldl_cons, List.foldl_cons, one, ih]
  have ins : insertByAccepted { s with freeCount := k } = insertByAccepted s := by
    funext j l
    induction l with
    | nil => rfl
    | cons a l ih => unfold insertByAccepted; rw [ih]
  have em : emptiedFences { s with freeCount := k } = emptiedFences s := by unfold emptiedFences; rw [ins]
  unfold answerEmptied; rw [em]; exact this (emptiedFences s) s

/-- An evaluation after a release does not read the count. -/
theorem afterRelease_freeCount (s : State) (k : Nat) :
    afterRelease { s with freeCount := k } = { afterRelease s with freeCount := k } := by
  have h' : (evalPressure { s with freeCount := k }) = { evalPressure s with freeCount := k } := rfl
  unfold afterRelease; rw [h']
  generalize evalPressure s = u
  unfold reachQuiesced
  by_cases h : u.mode = .quiescing ∧ occupancy u = 0
  · rw [if_pos h, if_pos]; exact h
  · rw [if_neg h, if_neg]; exact h

/-- The end of an access does not read the count. -/
theorem endAccess_freeCount (t : AccessTag) (e : AccessEnd) (s : State) (k : Nat) :
    endAccess t e { s with freeCount := k } = { endAccess t e s with freeCount := k } := by
  have hw : ∀ i (u : State), endWrite i e { u with freeCount := k } = { endWrite i e u with freeCount := k } := by
    intro i u
    have h' : ({ u with freeCount := k } : State).entry i = u.entry i := rfl
    unfold endWrite; rw [h']
    cases u.entry i with
    | issued c a =>
      dsimp only
      rw [reportEnd_freeCount]
      change afterRelease (answerEmptied { leaveFences i e.failed (dropEntry i (reportEnd c e u)) with freeCount := k }) = _
      rw [answerEmptied_freeCount, afterRelease_freeCount]
    | _ => rfl
  have hr : ∀ j (u : State), endRead j e { u with freeCount := k } = { endRead j e u with freeCount := k } := by
    intro j u
    have h' : ({ u with freeCount := k } : State).slot j = u.slot j := rfl
    unfold endRead; rw [h']
    cases u.slot j with
    | issued r a o => cases o <;> rfl
    | _ => rfl
  have h' : ({ s with freeCount := k } : State).access t = s.access t := rfl
  unfold endAccess; rw [h']
  cases s.access t with
  | outstanding o n =>
    cases o with
    | write i => exact hw i (s.setAccess t e.recordAfter)
    | read j => exact hr j (s.setAccess t e.recordAfter)
  | _ => rfl

/-- Nor do the ends of several. -/
theorem endAccesses_freeCount (l : List AccessTag) (s : State) (k : Nat) :
    l.foldl (fun u t => endAccess t .timeout u) { s with freeCount := k } =
      { l.foldl (fun u t => endAccess t .timeout u) s with freeCount := k } := by
  induction l generalizing s with
  | nil => rfl
  | cons a l ih => rw [List.foldl_cons, endAccess_freeCount, ih]; rfl

/-! ## The end of an access, by its owner -/

/-- The end of a write access (R17 to R19, R112). -/
theorem endAccess_write {t : AccessTag} {e : AccessEnd} {s : State} {i : EntryIx} {n : Nat}
    (h : s.access t = .outstanding (.write i) n) :
    endAccess t e s = endWrite i e (s.setAccess t e.recordAfter) := by
  unfold endAccess; rw [h]; rfl

/-- The end of a read access (R54 to R56, R60, R112). -/
theorem endAccess_read {t : AccessTag} {e : AccessEnd} {s : State} {k : SlotIx} {n : Nat}
    (h : s.access t = .outstanding (.read k) n) :
    endAccess t e s = endRead k e (s.setAccess t e.recordAfter) := by
  unfold endAccess; rw [h]; rfl

/-! ## The access timeouts of a tick -/

/-- The end of an access changes its own record only. -/
theorem endAccess_access {t e o n} {s : State} (h : s.access t = .outstanding o n) (x : AccessTag) :
    (endAccess t e s).access x = if x = t then e.recordAfter else s.access x := by
  unfold endAccess; rw [h]
  simp only [State.access, endOwner_frame, State.setAccess, Table.get_set]

/-- The records whose timers have reached the limit. -/
theorem mem_expiringTags (s : State) (t : AccessTag) :
    t ∈ expiringTags s ↔ ∃ o n, s.access t = .outstanding o n ∧ s.config.memTimeout ≤ n := by
  simp only [expiringTags, Table.mem_positions, State.access]
  cases s.accesses.get t <;> simp [AccessRec.timedOut]

/-- No tag stands in the list twice. -/
theorem nodup_expiringTags (s : State) : (expiringTags s).Nodup := Table.nodup_positions _ _

/-- There are eight tags at most. -/
theorem length_expiringTags (s : State) : (expiringTags s).length ≤ 8 := by
  simpa using (nodup_expiringTags s).length_le_card

/-- A timeout that is taken leaves the others to be taken. -/
theorem expiringTags_endAccess (t : AccessTag) (s : State) (h : t ∈ expiringTags s) (x : AccessTag) :
    x ∈ expiringTags (endAccess t .timeout s) ↔ x ≠ t ∧ x ∈ expiringTags s := by
  obtain ⟨o, n, h1, h2⟩ := (mem_expiringTags s t).mp h
  have hc : (endAccess t .timeout s).config = s.config := by simp
  rw [mem_expiringTags, mem_expiringTags, hc, endAccess_access h1]
  by_cases hx : x = t
  · subst hx; simp [h1, AccessEnd.recordAfter]
  · simp [hx]

/-- An expiry that is due is the end of the access. -/
theorem expireAccess_of_mem (t) (s : State) (h : t ∈ expiringTags s) : expireAccess t s = endAccess t .timeout s := by
  simp only [expiringTags, Table.mem_positions] at h
  unfold expireAccess; rw [show s.access t = s.accesses.get t from rfl, h]; rfl

/-- All access timeouts of a tick are taken, each once, in some order, and the count advances with every choice. -/
theorem expireAccesses_spec (n : Nat) (s : State) (hn : (expiringTags s).length ≤ n) :
    ∃ tags : List AccessTag, tags.Nodup ∧ (∀ t, t ∈ tags ↔ t ∈ expiringTags s) ∧
      expireAccesses n s =
        { tags.foldl (fun u t => endAccess t .timeout u) s with
          freeCount := s.freeCount + (tags.length - 1) } := by
  induction n generalizing s with
  | zero =>
    have : expiringTags s = [] := List.eq_nil_of_length_eq_zero (by omega)
    exact ⟨[], List.nodup_nil, by simp [this], rfl⟩
  | succ n ih =>
    cases hl : expiringTags s with
    | nil => exact ⟨[], List.nodup_nil, by simp, by unfold expireAccesses; rw [hl]; rfl⟩
    | cons t rest =>
      cases rest with
      | nil =>
        refine ⟨[t], by simp, by simp, ?_⟩
        unfold expireAccesses; rw [hl]; dsimp only
        rw [expireAccess_of_mem t s (by simp [hl])]
        have : (endAccess t .timeout s).freeCount = s.freeCount := by simp
        simp only [List.foldl_cons, List.foldl_nil, List.length_singleton, Nat.sub_self, Nat.add_zero, ← this]
      | cons u rest =>
        let all := t :: u :: rest
        let p := all.getD (Config.expiryPick s.freeCount % all.length) t
        have hp : p ∈ expiringTags s := by
          rw [hl]; show all.getD _ t ∈ all
          rw [List.getD_eq_getElem _ _ (Nat.mod_lt _ (by simp [all]))]; exact List.getElem_mem _
        let r : State := { endAccess p .timeout s with freeCount := s.freeCount + 1 }
        have e : expireAccesses (n+1) s = expireAccesses n r := by
          conv_lhs => unfold expireAccesses
          rw [hl]; show _ = expireAccesses n { endAccess p .timeout s with freeCount := s.freeCount + 1 }
          rw [← expireAccess_of_mem p s hp]
        have hm : ∀ x, x ∈ expiringTags r ↔ x ≠ p ∧ x ∈ expiringTags s :=
          fun x => expiringTags_endAccess p s hp x
        have hlen : (expiringTags r).length + 1 ≤ (expiringTags s).length := by
          have : (p :: expiringTags r).Subperm (expiringTags s) := by
            apply List.Nodup.subperm
            · exact List.nodup_cons.mpr ⟨fun h => ((hm p).mp h).1 rfl, nodup_expiringTags _⟩
            · intro x hx; rcases List.mem_cons.mp hx with rfl | hx
              · exact hp
              · exact ((hm x).mp hx).2
          simpa using this.length_le
        obtain ⟨tags, h1, h2, h3⟩ := ih r (by omega)
        refine ⟨p :: tags, List.nodup_cons.mpr ⟨fun h => ((hm p).mp ((h2 p).mp h)).1 rfl, h1⟩, fun x => ?_, ?_⟩
        · rw [List.mem_cons, h2, hm, hl]
          constructor
          · rintro (rfl | h)
            · rw [← hl]; exact hp
            · rw [← hl]; rw [← hl] at h; exact h.2
          · intro h
            by_cases hx : x = p
            · exact Or.inl hx
            · exact Or.inr ⟨hx, h⟩
        · have ne : tags ≠ [] := by
            intro h0
            have q : ∃ x ∈ expiringTags s, x ≠ p := by
              have hnd := nodup_expiringTags s
              rw [hl] at hnd
              by_cases htp : t = p
              · refine ⟨u, by simp [hl], fun h => ?_⟩
                rw [← h] at htp; rw [htp] at hnd; simp at hnd
              · exact ⟨t, by simp [hl], htp⟩
            obtain ⟨x, hx, hxp⟩ := q
            have := (h2 x).mpr ((hm x).mpr ⟨hxp, hx⟩)
            rw [h0] at this; cases this
          have hpos : 1 ≤ tags.length := List.length_pos_iff.mpr ne
          rw [e, h3, endAccesses_freeCount, List.foldl_cons]
          simp only [List.length_cons]
          rw [show s.freeCount + 1 + (tags.length - 1) = s.freeCount + (tags.length + 1 - 1) by omega]

/-! ## The idle expiries of a tick -/

/-- An abort changes its own context only. -/
theorem abortCtx_ctx_ne (c d : CtxIx) (r) (s : State) (h : d ≠ c) : (abortCtx c r s).ctx d = s.ctx d := by
  unfold abortCtx
  split
  · simp only [State.ctx, afterRelease_frame]
    simp [State.setCtx, releaseEntries, Table.get_set, h]
  · rfl

/-- The idle expiries of a list of contexts are the aborts of those that are due. -/
theorem expireIdles_eq_aborts (l : List CtxIx) (hl : l.Nodup) (s : State) :
    l.foldl (fun t c => expireIdle c t) s =
      (l.filter fun c => (s.ctx c).idledOut s.config.idleLimit).foldl (fun u c => abortCtx c .idle u) s := by
  induction l generalizing s with
  | nil => rfl
  | cons a l ih =>
    obtain ⟨ha, hl⟩ := List.nodup_cons.mp hl
    rw [List.foldl_cons, ih hl, List.filter_cons]
    have hf : (l.filter fun c => ((expireIdle a s).ctx c).idledOut (expireIdle a s).config.idleLimit) =
        l.filter fun c => (s.ctx c).idledOut s.config.idleLimit := by
      apply List.filter_congr; intro c hc
      have : c ≠ a := by rintro rfl; exact ha hc
      unfold expireIdle; split
      · rw [abortCtx_ctx_ne _ _ _ _ this, show (abortCtx a .idle s).config = s.config by simp]
      · rfl
    rw [hf]
    by_cases h : (s.ctx a).idledOut s.config.idleLimit = true
    · rw [if_pos h, List.foldl_cons]; unfold expireIdle; rw [if_pos h]
    · rw [if_neg h]; unfold expireIdle; rw [if_neg h]

/-! ## What the next tick brings, seen after the timers advanced -/

/-- An idle expiry. -/
theorem advance_idledOut (s : State) (c : CtxIx) :
    ((advanceTimers s).ctx c).idledOut s.config.idleLimit = true ↔ IdlesOutNext s c := by
  simp only [advanceTimers, State.ctx, Table.get_mapIx, IdlesOutNext]
  cases s.contexts.get c <;> simp [Ctx.tick, Ctx.idledOut]

/-- An access timeout. -/
theorem advance_timedOut (s : State) (c : AccessTag) :
    ((advanceTimers s).access c).timedOut s.config.memTimeout = true ↔ TimesOutNext s c := by
  simp only [advanceTimers, State.access, Table.get_mapIx, TimesOutNext]
  cases s.accesses.get c <;> simp [AccessRec.tick, AccessRec.timedOut]

/-- A bus timeout. -/
theorem advance_busTimedOut (s : State) : busTimedOut (advanceTimers s) = true ↔ BusTimesOutNext s := by
  simp only [busTimedOut, advanceTimers, BusTimesOutNext, Config.busTimeoutTicks]
  cases s.link.busTimer <;> simp

/-- The expiries of bundles and link leave the access timeouts as they are. -/
theorem mem_expiringTags_advance (s : State) (t : AccessTag) :
    t ∈ expiringTags (expireBusAndIdles (advanceTimers s)) ↔ TimesOutNext s t := by
  rw [← advance_timedOut]
  simp [expiringTags, State.access]

end Sys2Proof.Machine
end

