-- ==== Sys2Proof/Laws/Values.lean ====
section
/-! SUPPORT. The fields of words: a field read back from a sum of shifted codes, and the words that hold them. -/

namespace Sys2Proof.Machine

/-! ## Fields -/

/-- A field is the quotient and remainder of the number. -/
theorem extract_toNat (a b : Nat) (v : Word) (n : Nat) (h : v.toNat / 2 ^ a % 2 ^ b = n) :
    (v.extractLsb' a b).toNat = n := by
  simp only [BitVec.extractLsb'_toNat, Nat.shiftRight_eq_div_pow, h]

/-- The same as words. -/
theorem extract_eq (a b : Nat) (v : Word) (n : BitVec b) (h : v.toNat / 2 ^ a % 2 ^ b = n.toNat) :
    v.extractLsb' a b = n :=
  BitVec.eq_of_toNat_eq (extract_toNat a b v _ h)

/-- A flag at a bit. -/
theorem getLsbD_eq_flag (v : Word) (i : Nat) (b : Bool) (h : v.toNat / 2 ^ i % 2 = bit b) : v.getLsbD i = b := by
  rw [BitVec.getLsbD, Nat.testBit_eq_decide_div_mod_eq, h]; cases b <;> rfl

theorem bit_le (b : Bool) : bit b ≤ 1 := by cases b <;> decide

/-- A byte of a data field (R121). -/
theorem fieldOfBytes_byte (bytes : List Byte) (i : Nat) (h : i < 32) :
    (fieldOfBytes bytes).extractLsb' (8 * i) 8 = bytes[i]?.getD 0 := by
  apply BitVec.eq_of_toNat_eq
  simp only [fieldOfBytes, BitVec.extractLsb'_toNat, BitVec.toNat_ofNat, Nat.shiftRight_eq_div_pow]
  have gen : ∀ (l : List Byte) (i : Nat),
      (l.foldr (fun b acc => b.toNat + 256 * acc) 0) / 2 ^ (8 * i) % 2 ^ 8 = (l[i]?.getD 0).toNat := by
    intro l
    induction l with
    | nil => intro i; simp
    | cons b l ih =>
      intro i
      cases i with
      | zero => simp; omega
      | succ i =>
        rw [List.foldr_cons, show 8 * (i+1) = 8 + 8 * i by omega, Nat.pow_add, ← Nat.div_div_eq_div_mul]
        have hb := b.isLt
        rw [show (b.toNat + 256 * List.foldr (fun b acc => b.toNat + 256 * acc) 0 l) / 2 ^ 8 =
          List.foldr (fun b acc => b.toNat + 256 * acc) 0 l by omega, ih]
        simp
  rw [← gen bytes i, show 2 ^ 256 = 2 ^ (8 * i) * 2 ^ (256 - 8 * i) by rw [← Nat.pow_add]; congr 1; omega,
    Nat.mod_mul_right_div_self]
  rw [Nat.mod_mod_of_dvd _ (Nat.pow_dvd_pow 2 (by omega))]

/-! ## Counts -/

/-- A count runs over the positions. -/
theorem count_finRange {α : Type} {n : Nat} (t : Table α n) (p : α → Bool) :
    t.count p = (List.finRange n).countP fun i => p (t.get i) := by
  rw [Table.count, Table.items_eq]; simp [List.countP_map]; rfl

theorem count_le {α : Type} {n : Nat} (t : Table α n) (p : α → Bool) : t.count p ≤ n := by
  rw [count_finRange]; exact (List.countP_le_length).trans (by simp)

/-! ## Words -/

/-- The mode and status summary as a number: no field runs into the next (R176). -/
theorem summaryWord_toNat (s : State) : (summaryWord s).toNat =
    modeCode s.mode + 16 * bit s.pressure + 32 * bit s.overflow + 64 * bit s.stray + 128 * bit s.modeEvent +
      256 * occupancy s + 65536 * tagsQuarantined s + 1048576 * contextsInUse s + 16777216 * fencesInUse s := by
  have h1 : modeCode s.mode < 4 := by cases s.mode <;> decide
  have h2 := bit_le s.pressure
  have h3 := bit_le s.overflow
  have h4 := bit_le s.stray
  have h5 := bit_le s.modeEvent
  have h6 : occupancy s ≤ 64 := count_le _ _
  have h7 : tagsQuarantined s ≤ 8 := count_le _ _
  have h8 : contextsInUse s ≤ 6 := count_le _ _
  have h9 : fencesInUse s ≤ 8 := count_le _ _
  simp only [summaryWord, BitVec.toNat_ofNat]; omega

/-- The last result object as a number (R174, R176). -/
theorem lastResultWord_toNat (s : State) :
    (lastResultWord s).toNat = resultCode s.link.lastResult + 65536 * s.link.lastIndex.toNat := by
  have h1 : resultCode s.link.lastResult < 4 := by cases s.link.lastResult <;> decide
  have h2 := s.link.lastIndex.isLt
  simp only [lastResultWord, BitVec.toNat_ofNat]; omega

/-- Fault head A as a number (R176). -/
theorem faultHeadA_toNat (r : FaultRecord) : (faultHeadWord r .a).toNat =
    kindCode r.kind + 16 * r.port.val + 256 * bit (r.cls == .ordered) + 512 * bit r.fromBundle +
      65536 * (r.line.extractLsb' 32 8).toNat := by
  have h1 : kindCode r.kind < 4 := by cases r.kind <;> decide
  have h2 := r.port.isLt
  have h3 := bit_le (r.cls == .ordered)
  have h4 := bit_le r.fromBundle
  have h5 := (r.line.extractLsb' 32 8).isLt
  simp only [faultHeadWord, BitVec.toNat_ofNat]; omega

/-- A window object's index. -/
theorem objectAt_window (w : Fin 8) (part : WindowPart) :
    objectAt (BitVec.ofNat 16 (0x0200 + 4 * w.val + windowPartOffset part)) = .window w part := by
  revert w; cases part <;> decide

/-- A per-port status object's index. -/
theorem objectAt_portStatus (n : Port) : objectAt (BitVec.ofNat 16 (0x0400 + n.val)) = .portStatus n := by
  revert n; decide

end Sys2Proof.Machine
end

