-- ==== Sys2Proof/Tests/Slice0.lean ====
section
/-! SUPPORT. The model's own tests: ill-formed terms refused, one or two small checks of each command, and for every
obligation with hypotheses a concrete state and operands that meet them. -/

namespace Sys2Proof.Tests

set_option Elab.async false

open Sys2Proof.Machine Sys2Proof.Safety

/-! ## Well-formedness -/

theorem test_illformed_write_of_an_object_with_its_own_row : (Instr.objectWrite 0x0102 40).wellFormed = false := by decide
theorem test_illformed_write_of_a_window_object : (Instr.objectWrite 0x0206 0).wellFormed = false := by decide
theorem test_illformed_write_of_a_command_word : (Instr.objectWrite 0x0020 0x311).wellFormed = false := by decide
theorem test_wellformed_write_of_an_undefined_command_word : (Instr.objectWrite 0x0020 0x411).wellFormed = true := by decide
theorem test_wellformed_write_of_the_unassigned_window_index : (Instr.objectWrite 0x0207 0).wellFormed = true := by decide
theorem test_no_word_spells_a_command : decodeTableWord 8 0 = none := rfl

/-! ## Small states -/

/-- The state that a command leaves. -/
def after (c : Instr) (s : State) : State :=
  match exec c s with
  | .next t => t
  | .fault _ => s
  | .refused _ => s

/-- Mode RUN, every address of one class. -/
def running (cls : WClass) : State := { State.reset with mode := .run, config := { ConfigItems.reset with defaultClass := cls } }

/-- A head request at a port. -/
def withHead (p : Port) (tag : ReqTag) (body : ReqBody) (s : State) : State :=
  s.setPort p { s.port p with head := some { tag := tag, body := body } }

/-- A line of equal bytes. -/
def line (b : Byte) : LineData := Table.replicate 32 b

/-- A POST write of port p on a line, as an entry holds it. -/
def posted (p : Port) (a : Addr) : Committed :=
  { line := a, data := line 0xAA, mask := 0xFFFFFFFF, cls := .post, port := p, replyTag := none, fromBundle := false,
    age := 0, blockedBy := [] }

/-- A member of port 0 on line 0x100. -/
def aMember : Member := { line := 0x100, data := line 0x11, mask := 0x0F, port := 0 }

/-- The OPEN context of port 0 on lane L0, holding entry 0. -/
def aCtx : OpenCtx := { port := 0, lane := .l0, rank := .first, members := [0], idle := 3 }

/-- A read of port 3 of four bytes at 0x44. -/
def aRead (tag : ReqTag) (seq : Nat) (w : Option (List EntryIx)) : ReadRec :=
  { port := 3, tag := tag, addr := 0x44, len := 4, seq := seq, snapshot := [none, none, none, none], waitsFor := w }

/-- The fence of port 2 that waits for entry 2. -/
def aFence : FenceWait := { port := 2, tag := 4, accepted := 0, waitSet := [2], faultSeen := false }

/-- The THROUGH entry of port 2 on line 0x60, to be answered under tag 3. -/
def aThrough : Committed := { posted 2 0x60 with cls := .through, replyTag := some 3 }

/-- One of each: a member, a PENDING entry blocked by a READY slot, an ISSUED entry with its access, a WAITING slot, an
ISSUED slot with its access, an OPEN and an ABORTED context, a WAITING fence, an undelivered response. -/
def busy : State :=
  { running .post with
    entries := (((Table.replicate 64 Entry.free).set 0 (.member aMember)).set 1
      (.pending { posted 1 0x40 with blockedBy := [0] })).set 2 (.issued aThrough 0)
    commitOrder := [2, 1]
    slots := (((Table.replicate 24 Slot.free).set 0 (.ready (aRead 1 0 none))).set 1 (.waiting (aRead 2 1 (some [1])))).set 2
      (.issued (aRead 5 2 none) 1 false)
    contexts := ((Table.replicate 6 Ctx.free).set 0 (.opened aCtx)).set 1 (.aborted 0 .l1 .second .quota)
    fences := (Table.replicate 8 FenceRec.free).set 0 (.waiting aFence)
    nextFence := 1
    accesses := ((Table.replicate 8 AccessRec.free).set 0 (.outstanding (.write 2) 5)).set 1
      (.outstanding (.read 2) 99)
    ports := (((Table.replicate 4 PortState.reset).set 1
      { PortState.reset with outstanding := [7], queue := [{ tag := 7, answer := .done }] }).set 2
      { PortState.reset with outstanding := [3, 4] }).set 3 { PortState.reset with outstanding := [1, 2, 5], nextSeq := 3 } }

theorem busy_entry (i : EntryIx) : busy.entry i =
    if i = 0 then .member aMember else if i = 1 then .pending { posted 1 0x40 with blockedBy := [0] }
    else if i = 2 then .issued aThrough 0 else .free := by
  revert i; decide +kernel

theorem busy_ctx (c : CtxIx) : busy.ctx c =
    if c = 0 then .opened aCtx else if c = 1 then .aborted 0 .l1 .second .quota else .free := by
  revert c; decide +kernel

theorem busy_slot (k : SlotIx) : busy.slot k =
    if k = 0 then .ready (aRead 1 0 none) else if k = 1 then .waiting (aRead 2 1 (some [1]))
    else if k = 2 then .issued (aRead 5 2 none) 1 false else .free := by
  revert k; decide +kernel

theorem busy_access (t : AccessTag) : busy.access t =
    if t = 0 then .outstanding (.write 2) 5 else if t = 1 then .outstanding (.read 2) 99 else .free := by
  revert t; decide +kernel

theorem busy_fence (j : FenceIx) : busy.fence j = if j = 0 then .waiting aFence else .free := by
  revert j; decide +kernel

theorem busy_opened {c : CtxIx} {o : OpenCtx} (h : busy.ctx c = .opened o) : c = 0 ∧ o = aCtx := by
  rw [busy_ctx] at h
  split at h
  · exact ⟨‹_›, by simpa using h.symm⟩
  · split at h <;> cases h

theorem busy_member {i : EntryIx} {m : Member} (h : busy.entry i = .member m) : i = 0 ∧ m = aMember := by
  rw [busy_entry] at h
  split at h
  · exact ⟨‹_›, by simpa using h.symm⟩
  · split at h
    · cases h
    · split at h <;> cases h

/-! ## Witnesses of the invariants -/

theorem test_entries_exact_met : EntriesExact busy := by
  refine ⟨⟨by decide +kernel, by decide +kernel⟩, ⟨?_, ?_, ?_, ?_, ?_⟩⟩
  · intro c o h; obtain ⟨_, rfl⟩ := busy_opened h; decide
  · intro c o h i hi
    obtain ⟨_, rfl⟩ := busy_opened h
    have : i = 0 := by simpa [aCtx] using hi
    subst this; exact ⟨aMember, by decide +kernel, rfl⟩
  · intro i m h
    obtain ⟨rfl, rfl⟩ := busy_member h
    exact ⟨0, aCtx, by decide +kernel, by decide⟩
  · intro c d o q i h h' _ _
    rw [(busy_opened h).1, (busy_opened h').1]
  · intro c o h i _ j _ m n hm hn _
    rw [(busy_member hm).1, (busy_member hn).1]

theorem test_issue_order_met : IssueOrder busy := by
  have h : IssuedFirst busy busy.commitOrder := by unfold IssuedFirst; decide +kernel
  have sub : ∀ f, IssuedFirst busy (committedView busy f) := fun f => h.sublist List.filter_sublist
  exact ⟨fun p => sub _, sub _, fun l => sub _⟩

theorem test_access_owners_met : AccessOwners busy := by
  refine ⟨fun t i n h => ?_, fun t k n h => ?_, fun i c t h => ?_, fun k r t o h => ?_⟩
  · rw [busy_access] at h
    split at h
    · cases h; subst t; exact ⟨aThrough, by decide +kernel⟩
    · split at h <;> cases h
  · rw [busy_access] at h
    split at h
    · cases h
    · split at h
      · cases h; subst t; exact ⟨aRead 5 2 none, false, by decide +kernel⟩
      · cases h
  · rw [busy_entry] at h
    split at h
    · cases h
    · split at h
      · cases h
      · split at h
        · cases h; subst i; exact ⟨5, by decide +kernel⟩
        · cases h
  · rw [busy_slot] at h
    split at h
    · cases h
    · split at h
      · cases h
      · split at h
        · cases h; subst k; exact ⟨99, by decide +kernel⟩
        · cases h

theorem test_lanes_and_ranks_met : LanesAndRanks busy := by
  refine ⟨by decide +kernel, by decide +kernel, by decide +kernel⟩

theorem test_member_bounds_met : MemberBounds busy := by
  refine ⟨fun c o h => ?_, by decide +kernel⟩
  obtain ⟨_, rfl⟩ := busy_opened h
  decide +kernel

theorem busy_windows (w : Fin 8) : WindowLegal (busy.windows.get w) := by
  unfold WindowLegal; revert w; decide +kernel

theorem test_configuration_and_pressure_met : ConfigLegal busy ∧ PressureAgrees busy := by
  constructor
  · constructor <;> first | exact busy_windows | decide +kernel
  · unfold PressureAgrees; decide +kernel

theorem test_mode_agrees_met : ModeAgrees busy :=
  ⟨by decide +kernel, by decide +kernel, by decide +kernel⟩

theorem test_holds_and_wait_sets_met : HoldsLive busy ∧ WaitSetsLive busy := by
  refine ⟨⟨fun i a h k hk => ?_, fun i a t h => ?_, fun k r h => ?_, fun k r h => ?_, fun k r t o h => ?_⟩, fun j w h => ?_⟩
  · rw [busy_entry] at h
    split at h
    · cases h
    · split at h
      · cases h
        have : k = 0 := by simpa using hk
        subst this; decide +kernel
      · split at h
        · cases h; cases hk
        · cases h
  · rw [busy_entry] at h
    split at h
    · cases h
    · split at h
      · cases h
      · split at h
        · cases h; rfl
        · cases h
  · rw [busy_slot] at h
    split at h
    · cases h
    · split at h
      · cases h; exact ⟨[1], rfl, by decide, by decide +kernel⟩
      · split at h <;> cases h
  · rw [busy_slot] at h
    split at h
    · cases h; rfl
    · split at h
      · cases h
      · split at h <;> cases h
  · rw [busy_slot] at h
    split at h
    · cases h
    · split at h
      · cases h
      · split at h
        · cases h; rfl
        · cases h
  · rw [busy_fence] at h
    split at h
    · cases h; exact ⟨by decide, by decide, by decide +kernel⟩
    · cases h

theorem test_tags_accounted_met : TagsAccounted busy := by
  refine ⟨by decide +kernel, by decide +kernel, fun i c h hr => ?_, fun p r h => ?_⟩
  · rw [busy_entry] at h
    split at h
    · cases h
    · split at h
      · cases h; exact absurd rfl hr
      · split at h
        · cases h; rfl
        · cases h
  · have : ∀ q, (busy.port q).head = none := by decide +kernel
    rw [this] at h; cases h

theorem test_a_step_of_the_busy_state_is_next : ∃ t, step busy = .next t := ⟨_, rfl⟩

/-! ## Witnesses of the other obligations' hypotheses -/

/-- A head request at port 2, where the intake's pointer stands at 0. -/
def asks (body : ReqBody) (s : State) : State := withHead 2 9 body s

theorem test_empty_queue_met :
    State.reset.pending = [] ∧ State.reset.inReset = false ∧ State.reset.divider + 1 < State.reset.config.tbdiv ∧
      (let s := { State.reset with divider := 199 }; s.pending = [] ∧ s.config.tbdiv ≤ s.divider + 1) ∧
      (let s := { State.reset with inReset := true }; s.pending = [] ∧ s.inReset = true) := by decide +kernel

theorem test_device_reset_met : (after .deviceReset busy).inReset = true ∧ busy.inReset = false := by decide +kernel

theorem test_port_reset_met :
    busy.inReset = false ∧ MemberOf busy 0 0 ∧ Unissued busy 0 (aRead 1 0 none) ∧
      busy.slot 2 = .issued (aRead 5 2 none) 1 false ∧ busy.slot 3 = .free ∧ busy.fence 0 = .waiting aFence ∧
      busy.fence 7 = .free :=
  ⟨rfl, ⟨0, aCtx, by decide +kernel, rfl, by decide⟩, Or.inr (by decide +kernel), by decide +kernel,
    by decide +kernel, by decide +kernel, by decide +kernel⟩

theorem test_head_request_met :
    (busy.port 3).held = false ∧ (busy.port 3).head = none ∧ (5 : ReqTag) ∈ (busy.port 3).outstanding ∧
      (0 : ReqTag) ∉ (busy.port 3).outstanding ∧ requestBody 0 0x44 4 3 0 0 = some (.read 0x44 4) ∧
      requestBody 7 0 0 0 0 0 = none ∧ requestBody 1 0 0 3 0 0 = none ∧ requestBody 6 0 0 0 0 0 = none ∧
      ((asks .fencePort busy).port 2).head ≠ none := by decide +kernel

theorem test_delivery_met :
    (busy.port 1).queue = [{ tag := 7, answer := .done }] ∧ (busy.port 0).queue = [] := by decide +kernel

theorem test_intake_met :
    granted busy = none ∧ takeable (asks .fencePort busy) 2 = true ∧ granted (asks .fencePort busy) = some 2 := by
  decide +kernel

theorem test_waiting_head_met :
    ((asks (.write 0 none 1 (line 0)) { State.reset with mode := .quiescing }).port 2).head =
        some ⟨9, .write 0 none 1 (line 0)⟩ ∧
      headWaiting (asks (.write 0 none 1 (line 0)) { State.reset with mode := .quiescing }) 2 = true ∧
      headWaiting (asks (.write 0 none 1 (line 0)) State.reset) 2 = false := by decide +kernel

/-- A state that only asks for the granted request offers it. -/
theorem offers (s : State) (body : ReqBody) (h : (asks body s).inReset = false ∧ granted (asks body s) = some 2) :
    Offers (asks body s) 2 9 body :=
  ⟨h.1, h.2, by simp [asks, withHead, State.setPort, State.port]⟩

theorem test_malformed_met :
    Offers (asks (.read 0 0) busy) 2 9 (.read 0 0) ∧ Offers (asks (.read 0 33) busy) 2 9 (.read 0 33) ∧
      Offers (asks (.read 31 2) busy) 2 9 (.read 31 2) ∧
      Offers (asks (.write 0 none 0 (line 0)) busy) 2 9 (.write 0 none 0 (line 0)) ∧
      Offers (asks (.write 0 (some .l0) 0 (line 0)) busy) 2 9 (.write 0 (some .l0) 0 (line 0)) := by
  refine ⟨?_, ?_, ?_, ?_, ?_⟩ <;> exact offers _ _ (by decide +kernel)

theorem test_forwarded_read_met :
    (let s := asks (.read 0x40 32) busy
     Offers s 2 9 (.read 0x40 32) ∧ classOf s 0x40 ≠ .ordered ∧
       snapshotOf s 2 0x40 32 = (List.replicate 32 0xAA).map some) ∧
    (let s := asks (.read 0x9F 1) busy
     Offers s 2 9 (.read 0x9F 1) ∧ classOf s 0x9F ≠ .ordered ∧ none ∈ snapshotOf s 2 0x9F 1 ∧
       FirstAt s.slots (fun x => x = .free) 3) :=
  ⟨⟨offers _ _ (by decide +kernel), by decide +kernel, by decide +kernel⟩,
    ⟨offers _ _ (by decide +kernel), by decide +kernel, by decide +kernel, by unfold FirstAt; decide +kernel⟩⟩

/-- The OPEN context of port 0 on lane L1, of rank SECOND, holding entry 3. -/
def bCtx : OpenCtx := { aCtx with lane := .l1, rank := .second, members := [3] }

/-- A member of port 0 over byte 0 of line 0x100. -/
def bMember : Member := { aMember with mask := 0x01, data := line 0x22 }

/-- The busy state with both contexts of port 0 OPEN. -/
def layered : State :=
  { busy with
    entries := busy.entries.set 3 (.member bMember)
    contexts := busy.contexts.set 1 (.opened bCtx) }

theorem layered_ctx (c : CtxIx) :
    layered.ctx c = if c = 0 then .opened aCtx else if c = 1 then .opened bCtx else .free := by
  revert c; decide +kernel

theorem layered_opened {c : CtxIx} {o : OpenCtx} (h : layered.ctx c = .opened o) :
    (c = 0 ∧ o = aCtx) ∨ (c = 1 ∧ o = bCtx) := by
  rw [layered_ctx] at h
  split at h
  · cases h; exact Or.inl ⟨‹_›, rfl⟩
  · split at h
    · cases h; exact Or.inr ⟨‹_›, rfl⟩
    · cases h

theorem layered_member {i : EntryIx} {m : Member} (h : layered.entry i = .member m) :
    (i = 0 ∧ m = aMember) ∨ (i = 3 ∧ m = bMember) := by
  have : ∀ j, layered.entry j = if j = 3 then .member bMember else busy.entry j := by decide +kernel
  rw [this] at h
  split at h
  · cases h; exact Or.inr ⟨‹_›, rfl⟩
  · exact Or.inl (busy_member h)

theorem layered_exact : EntriesExact layered := by
  refine ⟨⟨by decide +kernel, by decide +kernel⟩, ⟨?_, ?_, ?_, ?_, ?_⟩⟩
  · intro c o h; rcases layered_opened h with ⟨_, rfl⟩ | ⟨_, rfl⟩ <;> decide
  · intro c o h i hi
    rcases layered_opened h with ⟨_, rfl⟩ | ⟨_, rfl⟩
    · have : i = 0 := by simpa [aCtx] using hi
      subst this; exact ⟨aMember, by decide +kernel, rfl⟩
    · have : i = 3 := by simpa [bCtx] using hi
      subst this; exact ⟨bMember, by decide +kernel, rfl⟩
  · intro i m h
    rcases layered_member h with ⟨rfl, _⟩ | ⟨rfl, _⟩
    · exact ⟨0, aCtx, by decide +kernel, by decide⟩
    · exact ⟨1, bCtx, by decide +kernel, by decide⟩
  · intro c d o q i h h' hi hi'
    rcases layered_opened h with ⟨rfl, rfl⟩ | ⟨rfl, rfl⟩ <;> rcases layered_opened h' with ⟨rfl, rfl⟩ | ⟨rfl, rfl⟩ <;>
      simp_all [aCtx, bCtx]
  · intro c o h i hi j hj m n _ _ _
    rcases layered_opened h with ⟨_, rfl⟩ | ⟨_, rfl⟩ <;> simp_all [aCtx, bCtx]

theorem test_snapshot_met :
    EntriesExact layered ∧ LanesAndRanks layered ∧
      MemberByte layered 0 .second (lineOf 0x100) (lineOffset 0x100 + 0) 0x22 ∧
      MemberByte layered 0 .first (lineOf 0x100) (lineOffset 0x100 + 3) 0x11 ∧
      (∀ a, ¬ MemberByte layered 0 .second (lineOf 0x100) (lineOffset 0x100 + 3) a) ∧
      (∀ r a, ¬ MemberByte layered 0 r (lineOf 0x100) (lineOffset 0x100 + 31) a) := by
  refine ⟨layered_exact, ⟨by decide +kernel, by decide +kernel, by decide +kernel⟩, ?_, ?_, ?_, ?_⟩
  · exact ⟨1, bCtx, 3, bMember, by decide +kernel, rfl, rfl, by decide, by decide +kernel, by decide, by decide,
      by decide +kernel⟩
  · exact ⟨0, aCtx, 0, aMember, by decide +kernel, rfl, rfl, by decide, by decide +kernel, by decide, by decide,
      by decide +kernel⟩
  · rintro a ⟨c, o, i, m, h1, _, h3, h4, h5, _, h7, _⟩
    rcases layered_opened h1 with ⟨_, rfl⟩ | ⟨_, rfl⟩
    · cases h3
    · rcases layered_member h5 with ⟨rfl, rfl⟩ | ⟨rfl, rfl⟩
      · simp [bCtx] at h4
      · exact absurd h7 (by decide)
  · rintro r a ⟨c, o, i, m, _, _, _, _, h5, _, h7, _⟩
    rcases layered_member h5 with ⟨rfl, rfl⟩ | ⟨rfl, rfl⟩ <;> exact absurd h7 (by decide)

theorem test_other_ports_met :
    busy.commitOrder = layered.commitOrder ∧ (∀ i, (busy.entry i).committed? = (layered.entry i).committed?) ∧
      (∀ c o, o.port = 1 → (busy.ctx c = .opened o ↔ layered.ctx c = .opened o)) ∧
      ∀ c o, o.port = 1 → busy.ctx c = .opened o → ∀ i ∈ o.members, busy.entry i = layered.entry i := by
  refine ⟨rfl, by decide +kernel, fun c o h => ⟨fun hc => ?_, fun hc => ?_⟩, fun c o h hc => ?_⟩
  · rw [(busy_opened hc).2] at h; cases h
  · rcases layered_opened hc with ⟨_, rfl⟩ | ⟨_, rfl⟩ <;> cases h
  · rw [(busy_opened hc).2] at h; cases h

theorem test_ordered_read_met :
    let s := asks (.read 0x40 32) { busy with config := { busy.config with defaultClass := .ordered } }
    Offers s 2 9 (.read 0x40 32) ∧ classOf s 0x40 = .ordered ∧ FirstAt s.slots (fun x => x = .free) 3 :=
  ⟨offers _ _ (by decide +kernel), by decide +kernel, by unfold FirstAt; decide +kernel⟩

theorem test_read_end_met :
    busy.inReset = false ∧ busy.access 1 = .outstanding (.read 2) 99 ∧ busy.slot 2 = .issued (aRead 5 2 none) 1 false ∧
      (busy.setSlot 2 (.issued (aRead 5 2 none) 1 true)).access 1 = .outstanding (.read 2) 99 ∧
      (busy.setSlot 2 (.issued (aRead 5 2 none) 1 true)).slot 2 = .issued (aRead 5 2 none) 1 true := by decide +kernel

/-- Window 1 enabled over 0x1000 to 0x1FFF with class POST. -/
def windowed : State :=
  { State.reset with windows := State.reset.windows.set 1 { enabled := true, base := 0x1000, exponent := 12, cls := .post } }

theorem test_lookup_met :
    FirstAt windowed.windows
        (fun x => x.enabled = true ∧ x.base.toNat ≤ (0x1FFF : Addr).toNat ∧ (0x1FFF : Addr).toNat < x.base.toNat + 2 ^ x.exponent) 1 ∧
      (∀ w, ¬ ((windowed.windows.get w).enabled = true ∧ (windowed.windows.get w).base.toNat ≤ (0x2000 : Addr).toNat ∧
        (0x2000 : Addr).toNat < (windowed.windows.get w).base.toNat + 2 ^ (windowed.windows.get w).exponent)) ∧
      (∀ w, WindowLegal (windowed.windows.get w)) ∧ lineOf 0x1FE0 = lineOf 0x1FFF ∧ windowed.mode = .pass ∧
      busy.mode ≠ .pass := by
  unfold FirstAt WindowLegal; decide +kernel

/-- Port 2's one committed entry, PENDING, POST, on line 0x40. -/
def posting : State := { running .post with entries := State.reset.entries.set 0 (.pending (posted 2 0x40)), commitOrder := [0] }

theorem test_combining_met :
    let s := asks (.write 0x5F none 1 (line 7)) posting
    Offers s 2 9 (.write 0x5F none 1 (line 7)) ∧ Combines s 2 (plainClass s 0x5F) (lineOf 0x5F) 0 (posted 2 0x40) := by
  refine ⟨offers _ _ (by decide +kernel), by decide +kernel, by decide +kernel, by decide +kernel, by decide +kernel,
    by decide +kernel, fun k r h => ?_⟩
  have : ∀ k, (asks (.write 0x5F none 1 (line 7)) posting).slot k = .free := by decide +kernel
  rcases h with h | h <;> rw [this] at h <;> cases h

theorem test_commit_order_exact : CommitOrderExact (asks (.write 0x60 none 1 (line 7)) posting) :=
  ⟨by decide +kernel, by decide +kernel⟩

theorem test_allocation_met :
    (let s := asks (.write 0x60 none 1 (line 7)) posting
     Offers s 2 9 (.write 0x60 none 1 (line 7)) ∧ FirstAt s.entries (fun e => e = .free) 1 ∧
       ∀ j c, ¬ Combines s 2 (plainClass s 0x60) (lineOf 0x60) j c) ∧
    (let s := asks (.write 0 none 1 (line 7)) State.reset
     Offers s 2 9 (.write 0 none 1 (line 7)) ∧ FirstAt s.entries (fun e => e = .free) 0 ∧ plainClass s 0 = .through ∧
       ∀ j c, ¬ Combines s 2 (plainClass s 0) (lineOf 0) j c) := by
  refine ⟨⟨offers _ _ (by decide +kernel), by unfold FirstAt; decide +kernel, fun j c h => ?_⟩,
    ⟨offers _ _ (by decide +kernel), by unfold FirstAt; decide +kernel, by decide +kernel, fun j c h => ?_⟩⟩
  · have h1 := h.tail
    rw [show orderQueue (asks (.write 0x60 none 1 (line 7)) posting) 2 = [0] by decide +kernel] at h1
    obtain rfl : j = 0 := by simpa using h1.symm
    have h2 := h.pending
    rw [show (asks (.write 0x60 none 1 (line 7)) posting).entry 0 = .pending (posted 2 0x40) by decide +kernel] at h2
    cases h2
    exact absurd h.onLine (by decide)
  · have h1 := h.tail
    rw [show orderQueue (asks (.write 0 none 1 (line 7)) State.reset) 2 = [] by decide +kernel] at h1
    cases h1

/-- Port 2 asks on its lane L0, where its context 0 holds entry 0, a member on line 0x100. -/
def bundled (body : ReqBody) (quota : Nat) (reserve : Nat) (cls : WClass) : State :=
  asks body
    { running cls with
      config := { ConfigItems.reset with defaultClass := cls, bundleQuota := quota, reserve := reserve }
      entries := State.reset.entries.set 0 (.member { aMember with port := 2 })
      contexts := State.reset.contexts.set 0 (.opened { aCtx with port := 2 }) }

theorem bundled_open (body : ReqBody) (q r : Nat) (cls : WClass) :
    OpenLane (bundled body q r cls) 2 .l0 0 { aCtx with port := 2 } := by
  have hc : ∀ c, (bundled body q r cls).ctx c = if c = 0 then .opened { aCtx with port := 2 } else .free := by
    intro c; show (State.reset.contexts.set 0 (.opened { aCtx with port := 2 })).get c = _
    revert c; decide +kernel
  have he : ∀ i, (bundled body q r cls).entry i = if i = 0 then .member { aMember with port := 2 } else .free := by
    intro i; show (State.reset.entries.set 0 (.member { aMember with port := 2 })).get i = _
    revert i; decide +kernel
  have ho : ∀ c o, (bundled body q r cls).ctx c = .opened o → c = 0 ∧ o = { aCtx with port := 2 } := by
    intro c o h; rw [hc] at h; split at h
    · exact ⟨‹_›, by simpa using h.symm⟩
    · cases h
  have hm : ∀ i m, (bundled body q r cls).entry i = .member m → i = 0 := by
    intro i m h; rw [he] at h; split at h
    · assumption
    · cases h
  refine ⟨⟨⟨List.nodup_nil, fun i => ?_⟩, ⟨?_, ?_, ?_, ?_, ?_⟩⟩, ⟨?_, ?_, ?_⟩, (hc 0).trans (if_pos rfl), rfl, rfl⟩
  · rw [he]; split <;> simp [bundled, asks, withHead, running, State.setPort, State.reset, Entry.committed?]
  · intro c o h; rw [(ho c o h).2]; decide
  · intro c o h i hi
    obtain ⟨_, rfl⟩ := ho c o h
    have : i = 0 := by simpa [aCtx] using hi
    subst this; exact ⟨_, (he 0).trans (if_pos rfl), rfl⟩
  · intro i m h; cases hm i m h; exact ⟨0, _, (hc 0).trans (if_pos rfl), by decide⟩
  · intro c d o q' i h h' _ _; rw [(ho c o h).1, (ho d q' h').1]
  · intro c o h i _ j _ m n h1 h2 _; rw [hm i m h1, hm j n h2]
  · intro c d h h'; rw [hc] at h'; simp only [hc] at h
    revert c d; decide +kernel
  · have key : ∀ (c : CtxIx) (p : Port),
        (if c = 0 then Ctx.opened { aCtx with port := 2 } else .free).ownedBy p = true → c = 0 := by decide +kernel
    intro c d p h h' _; rw [hc] at h h'
    rw [key c p h, key d p h']
  · intro c p h h'; rw [hc] at h'
    revert c; simp only [hc]; revert p; decide +kernel

theorem test_member_write_met :
    (let s := bundled (.write 0x11F (some .l0) 1 (line 7)) 16 8 .post
     Offers s 2 9 (.write 0x11F (some .l0) 1 (line 7)) ∧ OpenLane s 2 .l0 0 { aCtx with port := 2 } ∧
       classOf s 0x11F = .post ∧ s.entry 0 = .member { aMember with port := 2 } ∧ aMember.line = lineOf 0x11F) ∧
    (let s := bundled (.write 0x120 (some .l0) 1 (line 7)) 2 32 .post
     Offers s 2 9 (.write 0x120 (some .l0) 1 (line 7)) ∧ OpenLane s 2 .l0 0 { aCtx with port := 2 } ∧
       classOf s 0x120 = .post ∧ aMember.line ≠ lineOf 0x120 ∧ 1 < s.config.bundleQuota ∧
       memberEntries s + s.config.reserve < 64 ∧ s.config.reserve + 1 ≤ freeEntries s ∧
       FirstAt s.entries (fun e => e = .free) 1) :=
  ⟨⟨offers _ _ (by decide +kernel), bundled_open _ _ _ _, by decide +kernel, by decide +kernel, by decide +kernel⟩,
    ⟨offers _ _ (by decide +kernel), bundled_open _ _ _ _, by decide +kernel, by decide +kernel, by decide +kernel,
      by decide +kernel, by decide +kernel, by unfold FirstAt; decide +kernel⟩⟩

theorem test_member_write_stopped_met :
    (let s := asks (.write 0x120 (some .l0) 1 (line 7)) busy
     Offers s 2 9 (.write 0x120 (some .l0) 1 (line 7)) ∧ ∀ c, (s.ctx c).laneOf? ≠ some (2, .l0)) ∧
    (let s := asks (.write 0x120 (some .l0) 1 (line 7)) { running .post with
        contexts := State.reset.contexts.set 5 (.aborted 2 .l0 .first .idle) }
     Offers s 2 9 (.write 0x120 (some .l0) 1 (line 7)) ∧ LanesAndRanks s ∧ s.ctx 5 = .aborted 2 .l0 .first .idle) ∧
    (let s := bundled (.write 0x120 (some .l0) 1 (line 7)) 16 8 .ordered
     Offers s 2 9 (.write 0x120 (some .l0) 1 (line 7)) ∧ classOf s 0x120 ≠ .post) ∧
    (let s := bundled (.write 0x120 (some .l0) 1 (line 7)) 1 8 .post
     Offers s 2 9 (.write 0x120 (some .l0) 1 (line 7)) ∧ s.config.bundleQuota ≤ 1) ∧
    (let s := bundled (.write 0x120 (some .l0) 1 (line 7)) 16 63 .post
     Offers s 2 9 (.write 0x120 (some .l0) 1 (line 7)) ∧ 64 ≤ memberEntries s + s.config.reserve) :=
  ⟨⟨offers _ _ (by decide +kernel), by decide +kernel⟩,
    ⟨offers _ _ (by decide +kernel), ⟨by decide +kernel, by decide +kernel, by decide +kernel⟩, by decide +kernel⟩,
    ⟨offers _ _ (by decide +kernel), by decide +kernel⟩, ⟨offers _ _ (by decide +kernel), by decide +kernel⟩,
    ⟨offers _ _ (by decide +kernel), by decide +kernel⟩⟩

/-- The busy state with the idle timer of context 0 one tick before IDLE_LIMIT. -/
def idling : State := busy.setCtx 0 (.opened { aCtx with idle := 999 })

theorem test_abort_met :
    busy.ctx 0 = .opened aCtx ∧ aCtx.idle + 1 < busy.config.idleLimit ∧ (busy.ctx 1).isOpen = false ∧
      idling.ctx 0 = .opened { aCtx with idle := 999 } ∧ idling.config.idleLimit ≤ 1000 := by decide +kernel

theorem test_abort_all_met : busy.inReset = false ∧ MemberOf busy 0 0 ∧ ∀ p, ¬ MemberOf busy p 1 := by
  refine ⟨rfl, ⟨0, aCtx, by decide +kernel, rfl, by decide⟩, ?_⟩
  rintro p ⟨c, o, h, _, hi⟩
  rw [(busy_opened h).2] at hi; exact absurd hi (by decide)

theorem test_open_met :
    Offers (asks (.bOpen .l0) State.reset) 2 9 (.bOpen .l0) ∧
    Offers (asks (.bOpen .l0) { State.reset with mode := .quiesced }) 2 9 (.bOpen .l0) ∧
    (let s := asks (.bOpen .l0) { running .post with contexts := State.reset.contexts.set 5 (.aborted 2 .l0 .first .idle) }
     Offers s 2 9 (.bOpen .l0) ∧ (s.ctx 5).laneOf? = some (2, .l0)) ∧
    (let s := asks (.bOpen .l0) { running .post with contexts := Table.replicate 6 (.aborted 1 .l0 .first .idle) }
     Offers s 2 9 (.bOpen .l0) ∧ (∀ c, s.ctx c ≠ .free) ∧ ∀ c, (s.ctx c).laneOf? ≠ some (2, .l0)) ∧
    (let s := asks (.bOpen .l0) busy
     Offers s 2 9 (.bOpen .l0) ∧ s.mode = .run ∧ FirstAt s.contexts (fun x => x = .free) 2 ∧
       (∀ c, (s.ctx c).laneOf? ≠ some (2, .l0)) ∧ ∀ d, (s.ctx d).ownedBy 2 = false) :=
  ⟨offers _ _ (by decide +kernel), offers _ _ (by decide +kernel), ⟨offers _ _ (by decide +kernel), by decide +kernel⟩,
    ⟨offers _ _ (by decide +kernel), by decide +kernel, by decide +kernel⟩,
    ⟨offers _ _ (by decide +kernel), by decide +kernel, by unfold FirstAt; decide +kernel, by decide +kernel,
      by decide +kernel⟩⟩

theorem test_close_and_cancel_met :
    (Offers (bundled (.bClose .l0) 16 8 .post) 2 9 (.bClose .l0) ∧
      OpenLane (bundled (.bClose .l0) 16 8 .post) 2 .l0 0 { aCtx with port := 2 }) ∧
    (Offers (bundled (.bCancel .l0) 16 8 .post) 2 9 (.bCancel .l0) ∧
      OpenLane (bundled (.bCancel .l0) 16 8 .post) 2 .l0 0 { aCtx with port := 2 }) ∧
    (Offers (asks (.bClose .l1) busy) 2 9 (.bClose .l1) ∧ Offers (asks (.bCancel .l1) busy) 2 9 (.bCancel .l1) ∧
      ∀ c, (busy.ctx c).laneOf? ≠ some (2, .l1)) ∧
    (let s := { running .post with contexts := State.reset.contexts.set 5 (.aborted 2 .l0 .first .idle) }
     Offers (asks (.bClose .l0) s) 2 9 (.bClose .l0) ∧ Offers (asks (.bCancel .l0) s) 2 9 (.bCancel .l0) ∧
       (asks (.bClose .l0) s).ctx 5 = .aborted 2 .l0 .first .idle) :=
  ⟨⟨offers _ _ (by decide +kernel), bundled_open _ _ _ _⟩, ⟨offers _ _ (by decide +kernel), bundled_open _ _ _ _⟩,
    ⟨offers _ _ (by decide +kernel), offers _ _ (by decide +kernel), by decide +kernel⟩,
    ⟨offers _ _ (by decide +kernel), offers _ _ (by decide +kernel), by decide +kernel⟩⟩

theorem test_fence_met :
    (Offers (bundled .fencePort 16 8 .post) 2 9 (fenceBody .port) ∧
      (bundled .fencePort 16 8 .post).ctx 0 = .opened { aCtx with port := 2 }) ∧
    (Offers (asks .fencePort { busy with fences := Table.replicate 8 (.waiting aFence) }) 2 9 (fenceBody .port)) ∧
    (Offers (asks .fenceAll busy) 2 9 (fenceBody .all) ∧
      FirstAt (asks .fenceAll busy).fences (fun f => f = .free) 1 ∧
      ∀ c o, (asks .fenceAll busy).ctx c = .opened o → o.port ≠ 2) ∧
    (Offers (asks .fencePort State.reset) 2 9 (fenceBody .port) ∧
      FirstAt (asks .fencePort State.reset).fences (fun f => f = .free) 0) := by
  refine ⟨⟨offers _ _ (by decide +kernel), by decide +kernel⟩, offers _ _ (by decide +kernel),
    ⟨offers _ _ (by decide +kernel), by unfold FirstAt; decide +kernel, fun c o h => ?_⟩,
    ⟨offers _ _ (by decide +kernel), by unfold FirstAt; decide +kernel⟩⟩
  rw [(busy_opened (c := c) h).2]; decide

/-- Port 2's POST entry due by pressure, and a READY read of port 3 elsewhere. -/
def racing : State :=
  { posting with pressure := true, slots := State.reset.slots.set 0 (.ready { aRead 1 0 none with addr := 0x80 }) }

theorem test_arbiter_and_issue_met :
    (choosesDrain racing = false ∧ FirstAt racing.accesses (fun a => a = .free) 0 ∧ readCandidate racing 3 = some 0 ∧
      scanRings racing.config.portLow racing.arbiter.reads (fun q => (readCandidate racing q).isSome) = some (3, false) ∧
      racing.slot 0 = .ready { aRead 1 0 none with addr := 0x80 }) ∧
    (let s := { racing with arbiter := { racing.arbiter with lastClass := .read } }
     choosesDrain s = true ∧ drainCandidate s 2 = some 0 ∧ s.entry 0 = .pending (posted 2 0x40) ∧
      scanRings s.config.portLow s.arbiter.drains (fun q => (drainCandidate s q).isSome) = some (2, false)) ∧
    ((∀ p, drainCandidate State.reset p = none) ∧ ∀ p, readCandidate State.reset p = none) ∧
    ∀ t, ({ racing with accesses := Table.replicate 8 .quarantined } : State).access t ≠ .free := by
  unfold FirstAt; decide +kernel

theorem test_write_end_met :
    busy.inReset = false ∧ busy.access 0 = .outstanding (.write 2) 5 ∧ busy.entry 2 = .issued aThrough 0 ∧ WaitSetsLive busy ∧
      aFence.waitSet.filter (fun x => x != 2) = [] ∧ busy.fence 0 = .waiting aFence :=
  ⟨rfl, by decide +kernel, by decide +kernel, test_holds_and_wait_sets_met.2, by decide, by decide +kernel⟩

/-- A POST entry of port 2 whose access the next tick times out, with `n` fault records in the list. -/
def failing (n : Nat) : State :=
  { running .post with
    entries := State.reset.entries.set 0 (.issued (posted 2 0x40) 0)
    commitOrder := [0]
    accesses := State.reset.accesses.set 0 (.outstanding (.write 0) 99)
    faultList := List.replicate n
      { kind := .writeError, line := 0, mask := 1, port := 0, cls := .post, fromBundle := false, time := 0 } }

theorem test_posted_failure_met :
    (failing 7).inReset = false ∧ (failing 7).access 0 = .outstanding (.write 0) 99 ∧
      (failing 7).entry 0 = .issued (posted 2 0x40) 0 ∧ WaitSetsLive (failing 7) ∧ (failing 7).faultList.length < 8 ∧
      8 ≤ (failing 8).faultList.length := by
  refine ⟨rfl, by decide +kernel, by decide +kernel, fun j w h => ?_, by decide, by decide⟩
  have : ∀ j, (failing 7).fence j = .free := by decide +kernel
  rw [this] at h; cases h

theorem test_times_out_met : TimesOutNext busy 1 ∧ ¬ TimesOutNext busy 0 := by
  refine ⟨⟨.read 2, 99, by decide +kernel, by decide⟩, ?_⟩
  rintro ⟨owner, n, h, hn⟩
  rw [busy_access] at h
  cases h
  exact absurd hn (by decide)

theorem test_stray_met :
    busy.access 5 = .free ∧ (busy.setAccess 5 .quarantined).access 5 = .quarantined := by decide +kernel

/-- Everything at once: the next tick brings a bus timeout, an idle expiry and two access timeouts. -/
def crowded : State :=
  { idling with
    accesses := busy.accesses.set 0 (.outstanding (.write 2) 99)
    link := { busy.link with frame := .indexHigh, busTimer := some 24999 } }

theorem test_tick_met :
    crowded.inReset = false ∧ crowded.entry 1 = .pending { posted 1 0x40 with blockedBy := [0] } ∧
      BusTimesOutNext crowded ∧ IdlesOutNext crowded 0 ∧ TimesOutNext crowded 0 ∧ TimesOutNext crowded 1 ∧
      ¬ BusTimesOutNext busy := by
  refine ⟨rfl, by decide +kernel, ⟨24999, rfl, by decide⟩, ⟨{ aCtx with idle := 999 }, by decide +kernel, by decide +kernel⟩,
    ⟨.write 2, 99, by decide +kernel, by decide⟩, ⟨.read 2, 99, by decide +kernel, by decide⟩, ?_⟩
  rintro ⟨n, h, _⟩
  cases h

/-- A port with one response to deliver. -/
def answering (a : Answer) : State :=
  { State.reset with ports := State.reset.ports.set 1 { PortState.reset with outstanding := [7], queue := [⟨7, a⟩] } }

theorem test_response_met (a : Answer) : ((answering a).port 1).queue = [⟨7, a⟩] ∧ (answering a).inReset = false :=
  ⟨rfl, rfl⟩

theorem test_object_values_met :
    (∀ n, (busy.port n).outstanding.Nodup) ∧ (∀ w, WindowLegal (busy.windows.get w)) ∧ (failing 2).faultList ≠ [] :=
  ⟨by decide +kernel, busy_windows, by decide +kernel⟩

/-- The reset state with a frame of the link in progress. -/
def framed (f : Frame) : State := { State.reset with link := { State.reset.link with frame := f } }

theorem test_link_met :
    (framed .indexHigh).link.frame = .indexHigh ∧ (framed (.indexLow 1)).link.frame = .indexLow 1 ∧
      (framed (.writeData [1, 2])).link.frame = .writeData [1, 2] ∧ ([1, 2] : List Byte).length < 3 ∧
      (framed (.writeData [1, 2, 3])).link.frame = .writeData [1, 2, 3] ∧
      (framed (.readData .atStart)).link.frame = .readData .atStart ∧
      (framed (.readData (.sending 5 2))).link.frame = .readData (.sending 5 2) ∧
      (framed (.readData (.sending 5 3))).link.frame = .readData (.sending 5 3) ∧
      (framed (.readData .ended)).link.frame = .readData .ended ∧ State.reset.link.busTimer = none := by decide +kernel

theorem test_mode_commands_met :
    State.reset.mode = .pass ∧ busy.mode = .run ∧ occupancy busy ≠ 0 ∧ (running .post).mode = .run ∧
      occupancy (running .post) = 0 ∧ (∀ c, (State.reset.ctx c).isOpen = false) ∧ (busy.ctx 0).isOpen = true := by
  decide +kernel

theorem test_interlock_met : Unlocked State.reset ∧ ¬ Unlocked busy := by
  refine ⟨Or.inr (by decide +kernel), ?_⟩
  rintro (⟨h, _⟩ | ⟨h, _⟩) <;> exact absurd h (by decide)

theorem test_configuration_met :
    (classCode .through + (if true then 256 else 0) = 0x102) ∧ (∀ cls : WClass, classCode cls < 3) ∧
      objectAt 0x0203 = .unassigned ∧ objectAt 0xFFFF = .unassigned ∧ objectAt 0x0404 = .unassigned ∧
      objectAt 0x0403 = .portStatus 3 ∧ objectAt 0x010B = .config .alertMask ∧ objectAt 0x010C = .unassigned ∧
      isCommandWord 0x411 = false ∧ (failing 1).faultList ≠ [] ∧ State.reset.faultList = [] := by
  refine ⟨rfl, fun cls => by cases cls <;> decide, by decide, by decide, by decide, by decide, by decide, by decide, by decide,
    by decide +kernel, rfl⟩

/-! ## One or two checks of each command -/

theorem test_head_request_read : ((after (.headRequest 3 0 0 0x44 4 3 0 0) busy).port 3).head = some ⟨0, .read 0x44 4⟩ := by
  decide +kernel
theorem test_head_request_duplicate_tag :
    ((after (.headRequest 3 0 5 0x44 4 0 0 0) busy).port 3).violation = true ∧
      ((after (.headRequest 3 0 5 0x44 4 0 0 0) busy).port 3).head = none := by decide +kernel
theorem test_forwarded_read_from_the_buffer :
    ((after .forwardedRead (asks (.read 0x40 2) busy)).port 2).queue = [⟨9, .doneRead [0xAA, 0xAA] .buffer⟩] := by
  decide +kernel
theorem test_ordered_read_waits_for_its_line :
    (after .orderedRead (asks (.read 0x40 1) { busy with config := { busy.config with defaultClass := .ordered } })).slot 3 =
      .waiting { port := 2, tag := 9, addr := 0x40, len := 1, seq := 0, snapshot := [none], waitsFor := some [1] } := by
  decide +kernel
theorem test_plain_write_combines :
    ((after .plainWrite (asks (.write 0x5F none 2 (line 7)) posting)).entry 0).committed?.map (fun c => (c.data.get 0, c.data.get 1))
      = some (0xAA, 7) ∧ (after .plainWrite (asks (.write 0x5F none 2 (line 7)) posting)).entry 1 = .free := by
  decide +kernel
theorem test_plain_write_allocates :
    (after .plainWrite (asks (.write 0x67 none 2 (line 7)) posting)).commitOrder = [0, 1] ∧
      ((after .plainWrite (asks (.write 0x67 none 2 (line 7)) posting)).port 2).queue = [⟨9, .done⟩] := by decide +kernel
theorem test_member_write_allocates :
    (after .memberWrite (bundled (.write 0x120 (some .l0) 1 (line 7)) 16 8 .post)).ctx 0 =
      .opened { aCtx with port := 2, members := [0, 1], idle := 0 } := by decide +kernel
theorem test_member_write_of_another_class :
    (after .memberWrite (bundled (.write 0x120 (some .l0) 1 (line 7)) 16 8 .through)).ctx 0 = .aborted 2 .l0 .first .cls ∧
      occupancy (after .memberWrite (bundled (.write 0x120 (some .l0) 1 (line 7)) 16 8 .through)) = 0 := by decide +kernel
theorem test_fence_port_waits : (after .fencePort (asks .fencePort posting)).fence 0 =
    .waiting { port := 2, tag := 9, accepted := 0, waitSet := [0], faultSeen := false } := by decide +kernel
theorem test_fence_all_waits_for_every_port : (after .fenceAll (asks .fenceAll busy)).fence 1 =
    .waiting { port := 2, tag := 9, accepted := 1, waitSet := [1, 2], faultSeen := false } := by decide +kernel
theorem test_open_takes_the_lowest_context : (after .bOpen (asks (.bOpen .l1) busy)).ctx 2 =
    .opened { port := 2, lane := .l1, rank := .first, members := [], idle := 0 } := by decide +kernel
theorem test_close_commits :
    (after .bClose (bundled (.bClose .l0) 16 8 .post)).commitOrder = [0] ∧
      ((after .bClose (bundled (.bClose .l0) 16 8 .post)).entry 0).isPending = true ∧
      (after .bClose (bundled (.bClose .l0) 16 8 .post)).ctx 0 = .free := by decide +kernel
theorem test_cancel_releases :
    (after .bCancel (bundled (.bCancel .l0) 16 8 .post)).entry 0 = .free ∧
      (after .bCancel (bundled (.bCancel .l0) 16 8 .post)).commitOrder = [] := by decide +kernel
theorem test_delivery_frees_the_tag :
    ((after (.responseDelivery 1) busy).port 1).outstanding = [] ∧ ((after (.responseDelivery 1) busy).port 1).queue = [] := by
  decide +kernel
theorem test_issue_of_a_read :
    (after .issue racing).slot 0 = .issued { aRead 1 0 none with addr := 0x80 } 0 false ∧
      (after .issue racing).access 0 = .outstanding (.read 0) 0 := by decide +kernel
theorem test_issue_of_a_drain_under_pressure :
    (after .issue { racing with arbiter := { racing.arbiter with lastClass := .read } }).entry 0 = .issued (posted 2 0x40) 0 := by
  decide +kernel
theorem test_response_answers_the_write_before_the_fence :
    ((after (.memoryResponse 0 .ok 0) busy).port 2).queue = [⟨3, .done⟩, ⟨4, .done⟩] ∧
      (after (.memoryResponse 0 .ok 0) busy).entry 2 = .free := by decide +kernel
theorem test_stray_response : (after (.memoryResponse 7 .ok 0) busy).stray = true := by decide +kernel
theorem test_tick_ages_and_counts :
    (after .tick posting).timeCount = 1 ∧ ((after .tick posting).entry 0).committed?.map (fun c => c.age) = some 1 := by
  decide +kernel
theorem test_tick_takes_the_expiry_it_brings :
    (after .tick busy).access 1 = .quarantined ∧ (after (.memoryResponse 1 .ok 0) (after .tick busy)).stray = true ∧
      (after .tick (failing 0)).faultList.map (fun r => r.time) = [1] := by decide +kernel
theorem test_age_reached_changes_nothing : after (.ageReached 1) busy = busy := by decide +kernel
theorem test_idle_expiry :
    (after (.idleExpiry 0) idling).ctx 0 = .aborted 0 .l0 .first .idle ∧ (after (.idleExpiry 0) idling).entry 0 = .free ∧
      after (.idleExpiry 0) busy = busy := by decide +kernel
theorem test_access_timeout_of_a_read :
    ((after (.accessTimeout 1) busy).port 3).queue = [⟨5, .fault .memTimeout⟩] ∧
      (after (.accessTimeout 1) busy).slot 2 = .free := by decide +kernel
theorem test_access_timeout_of_a_posted_write :
    ((after (.accessTimeout 0) (failing 7)).port 2).portFault = true ∧ (after (.accessTimeout 0) (failing 7)).faultList.length = 8 ∧
      (after (.accessTimeout 0) (failing 8)).overflow = true := by decide +kernel
theorem test_port_reset_input_holds_the_port :
    ((after (.prstAssert 3) busy).port 3).held = true ∧ (after (.prstAssert 3) busy).slot 2 = .issued (aRead 5 2 none) 1 true ∧
      (after (.prstAssert 3) busy).slot 0 = .free ∧
      (after (.prstAssert 3) busy).entry 1 = .pending (posted 1 0x40) := by decide +kernel
theorem test_port_reset_release : ((after (.prstRelease 3) (after (.prstAssert 3) busy)).port 3).held = false := by decide +kernel
theorem test_device_reset : occupancy (after .deviceReset busy) = 0 ∧ (after .deviceReset busy).mode = .pass := by decide +kernel
theorem test_device_reset_release_keeps_the_strap :
    busAddress (after (.deviceResetRelease 3) (after .deviceReset busy)) = 0x3D := by decide +kernel
theorem test_start_with_the_own_address :
    (after (.linkStart 0x74) State.reset).link.frame = .indexHigh ∧
      (after (.linkStart 0x75) State.reset).link.frame = .readData .atStart := by decide +kernel
theorem test_start_with_another_address : (after (.linkStart 0x76) (framed .indexHigh)).link.frame = .idle := by decide +kernel
theorem test_index_bytes : (after (.linkIndexByte 0x04) (framed (.indexLow 0x01))).link.index = 0x0104 := by decide +kernel
theorem test_data_bytes_write_an_object :
    (after (.linkDataByte 0) { framed (.writeData [7, 0, 0]) with link := { (framed (.writeData [7, 0, 0])).link with index := 0x0104 } }).config.ageLimit
      = 7 := by decide +kernel
theorem test_read_byte_sends_the_vendor_code :
    byteSent (framed (.readData .atStart)) = some 0x47 ∧
      (after (.linkReadByte true) (framed (.readData .atStart))).link.frame = .readData (.sending 0x42165047 1) := by decide +kernel
theorem test_stop : (after .linkStop (framed (.writeData [1]))).link.frame = .idle := by decide +kernel
theorem test_bus_timeout :
    (after .busTimeout { framed .indexHigh with link := { (framed .indexHigh).link with busTimer := some 24999 } }).link.frame
      = .idle := by decide +kernel
theorem test_scl_edges :
    (after (.sclEdge .falling) (framed .indexHigh)).link.busTimer = some 0 ∧
      (after (.sclEdge .rising) (after (.sclEdge .falling) (framed .indexHigh))).link.busTimer = none := by decide +kernel
theorem test_enable : (after .enable State.reset).mode = .run ∧ (after .enable busy).link.lastResult = .refusedState := by
  decide +kernel
theorem test_quiesce :
    (after .quiesce busy).mode = .quiescing ∧ (after .quiesce (running .post)).mode = .quiesced ∧
      (after .quiesce (running .post)).modeEvent = true := by decide +kernel
theorem test_resume : (after .resume { busy with mode := .quiescing }).mode = .run := by decide +kernel
theorem test_disable : (after .disable { State.reset with mode := .quiesced }).mode = .pass ∧
    (after .disable { busy with mode := .quiesced }).mode = .quiesced := by decide +kernel
theorem test_abort_bundles : (after .abortBundles busy).ctx 0 = .aborted 0 .l0 .first .maint ∧
    (after .abortBundles busy).ctx 1 = .aborted 0 .l1 .second .quota := by decide +kernel
theorem test_port_reset_command :
    (after (.portReset 0) busy).ctx 1 = .free ∧ (after (.portReset 0) busy).entry 0 = .free ∧
      ((after (.portReset 0) busy).port 0).held = false := by decide +kernel
theorem test_response_signals :
    responseSignals (answering (.aborted .maint)) 1 = { valid := true, tag := 7, status := 5, reason := 17, source := 0, data := 0 } ∧
      (responseSignals (answering (.doneRead [0x11, 0x22] .mixed)) 1).data = 0x2211 := by decide +kernel
theorem test_summary_and_fault_head_values :
    readObject busy (objectAt 0x0010) = 0x01200301 ∧ readObject (failing 1) (objectAt 0x0301) = 1 ∧
      readObject busy (objectAt 0x0403) = 3 := by decide +kernel
theorem test_fault_pop : (after .faultPop (failing 2)).faultList.length = 1 ∧
    (after .faultPop State.reset).link.lastResult = .refusedState := by decide +kernel
theorem test_clear_flags : (after .clearFlags { busy with stray := true, overflow := true }).stray = false := by decide +kernel
theorem test_release_tags : (after .releaseTags (busy.setAccess 5 .quarantined)).access 5 = .free := by decide +kernel
theorem test_marks :
    (after (.highMark 3) busy).config.highMark = 48 ∧ (after (.highMark 64) busy).config.highMark = 64 ∧
      (after (.lowMark 48) busy).link.lastResult = .refusedValue ∧ (after (.lowMark 47) busy).config.lowMark = 47 := by
  decide +kernel
theorem test_limits :
    (after (.ageLimit 1023) busy).config.ageLimit = 1023 ∧ (after (.ageLimit 1024) busy).config.ageLimit = 64 ∧
      (after (.idleLimit 0) busy).link.lastResult = .refusedValue ∧ (after (.memTimeout 4095) busy).config.memTimeout = 4095 := by
  decide +kernel
theorem test_tbdiv : (after (.tbdiv 1024) State.reset).config.tbdiv = 1024 ∧
    (after (.tbdiv 1024) busy).link.lastResult = .refusedState := by decide +kernel
theorem test_alert_mask : (after (.alertMask 8) busy).config.alertMask = ⟨false, false, false, true⟩ ∧
    (after (.alertMask 16) busy).link.lastResult = .refusedValue := by decide +kernel
theorem test_window_object :
    ((after (.windowObject 7 .classEnable 0x101) State.reset).windows.get 7) = { enabled := true, base := 0, exponent := 12, cls := .ordered } ∧
      (after (.windowObject 1 .baseLow 0x800) windowed).link.lastResult = .refusedValue ∧
      (after (.windowObject 1 .baseLow 0) busy).link.lastResult = .refusedState := by decide +kernel
theorem test_object_write :
    (after (.objectWrite 0x0108 5) State.reset).config.portLow.get 2 = true ∧
      (after (.objectWrite 0x0000 5) State.reset).link.lastResult = .refusedValue ∧
      (after (.objectWrite 0x0020 0x411) State.reset).link.lastResult = .refusedValue := by decide +kernel
theorem test_step_takes_the_front_command :
    (match step { State.reset with pending := [.enable, .quiesce] } with
      | .next t => decide (t.mode = .run ∧ t.pending = [.quiesce])
      | _ => false) = true := by decide +kernel

end Sys2Proof.Tests
end

section
/-! The posting buffer (chapter 1): the marks, combining, and the allocation of plain writes. -/

namespace Sys2Proof.PostingBuffer

open Sys2Proof.Machine Sys2Proof.Safety

/-! ## The marks (R15) -/

theorem exec_highMark (v : Word) (s : State) : exec (.highMark v) s = execHighMark v s := rfl

theorem exec_lowMark (v : Word) (s : State) : exec (.lowMark v) s = execLowMark v s := rfl

/-- The bounds that `writeHighMark` checks on the object value: the field width of 7 bits follows from the range. -/
theorem highMark_check_iff (s : State) (v : Word) :
    (fitsIn v 7 && inRange 8 64 v && s.config.lowMark < v.toNat) = true ↔
      8 ≤ v.toNat ∧ v.toNat ≤ 64 ∧ s.config.lowMark < v.toNat := by
  simp only [fitsIn, inRange, Bool.and_eq_true, decide_eq_true_eq]
  omega

/-- The bounds that `writeLowMark` checks on the object value: the field width of 6 bits is the range itself. -/
theorem lowMark_check_iff (s : State) (v : Word) :
    (fitsIn v 6 && inRange 0 63 v && v.toNat < s.config.highMark) = true ↔
      v.toNat ≤ 63 ∧ v.toNat < s.config.highMark := by
  simp only [fitsIn, inRange, Bool.and_eq_true, decide_eq_true_eq]
  omega

/-- Settles O46: each object is a checked store, and what it stores is evaluated against the marks it leaves. -/
theorem marksAreCheckedAndEvaluated : Obligations.MarksAreCheckedAndEvaluated := by
  refine ⟨fun s v hs => ⟨?_, ?_⟩, rfl, rfl⟩
  · rw [exec_highMark, execHighMark, whileRunning_of hs, writeHighMark,
      recordResult_storeIf (highMark_check_iff s v)]
    rfl
  · rw [exec_lowMark, execLowMark, whileRunning_of hs, writeLowMark,
      recordResult_storeIf (lowMark_check_iff s v)]
    rfl

/-! ## Combining (R9 to R11) -/

theorem coveringSlots_eq_nil {s : State} {line : Addr} :
    coveringSlots s line = [] ↔ ∀ k r, Unissued s k r → lineOf r.addr ≠ line := by
  simp [List.eq_nil_iff_forall_not_mem, mem_coveringSlots]

/-- The buffer's search for a target decides the conditions of R9 and R10. -/
theorem combineTarget_eq_some {s : State} {p : Port} {cls : WClass} {line : Addr} {i : EntryIx} {c : Committed} :
    combineTarget s p cls line = some (i, c) ↔ Combines s p cls line i c := by
  constructor
  · intro h
    obtain ⟨hpending, hline, hc, hw, htail, hyoungest, hcover⟩ := combineTarget_some h
    exact { tail := htail, pending := hpending, post := ⟨hc, hw⟩, youngest := by rw [hline]; exact hyoungest,
            onLine := hline, free := coveringSlots_eq_nil.mp hcover }
  · intro h
    simp only [combineTarget, h.tail, h.pending]
    exact if_pos ⟨h.post.1, h.post.2, h.youngest, h.onLine, coveringSlots_eq_nil.mpr h.free⟩

theorem combineTarget_eq_none {s : State} {p : Port} {cls : WClass} {line : Addr} :
    combineTarget s p cls line = none ↔ ∀ i c, ¬ Combines s p cls line i c := by
  simp [Option.eq_none_iff_forall_ne_some, ← combineTarget_eq_some]

theorem get_layOver (old new : LineData) (mask : ByteMask) (pos : Fin 32) :
    (layOver old mask new).get pos = if mask.getLsbD pos.val then new.get pos else old.get pos := by
  rw [layOver, Table.get_ofFn, selects]

/-! ## Allocation (R7) -/

/-- One more entry is in use where a FREE one is filled (R13). -/
theorem occupancy_fill {s : State} {i : EntryIx} (hi : s.entry i = .free) (c : Committed) :
    occupancy (s.setEntry i (.pending c)) = occupancy s + 1 := by
  simpa [hi, Entry.isFree] using occ_setEntry s i (.pending c)

/-- The whole effect of an allocation on a FREE entry (R7, R14). -/
theorem allocatePlain_eq {s : State} {i : EntryIx} (hi : s.entry i = .free) (c : Committed) :
    allocatePlain i c s =
      { s with
        entries := s.entries.set i (.pending c)
        commitOrder := s.commitOrder ++ [i]
        pressure := pressureAt s (occupancy s + 1) } := by
  rw [← occupancy_fill hi c]
  rfl

/-- An entry that commits at the end of the commit order is the last of every view that its fields pass. -/
theorem committedView_commit {s t : State} {i : EntryIx} {c : Committed} (hE : CommitOrderExact s)
    (hi : s.entry i = .free) (he : t.entries = s.entries.set i (.pending c))
    (hc : t.commitOrder = s.commitOrder ++ [i]) (f : Committed → Bool) :
    committedView t f = committedView s f ++ if f c then [i] else [] := by
  have hnew : t.entry i = .pending c := by rw [State.entry, he, Table.get_set_self]
  have hold : ∀ j ∈ s.commitOrder, t.entry j = s.entry j := by
    intro j hj
    have hji : j ≠ i := by
      rintro rfl
      simpa [hi, Entry.committed?] using (hE.2 j).mp hj
    rw [State.entry, he, Table.get_set_ne _ _ hji]
  rw [committedView_append f hc hold]
  simp [hnew, Entry.committedWith, Entry.committed?, List.filter_singleton]

/-! ## The acceptance of a plain write -/

/-- An acceptance not answered yet, on a state whose ports are those before it. -/
theorem accepted_of_ports (p : Port) (tag : ReqTag) {s t : State} (h : t.ports = s.ports) :
    accepted p tag t = { t with ports := (taken s p tag).ports, intakePtr := p + 1 } := by
  simp [accepted, taken, takenPort, State.setPort, State.port, h]

theorem exec_plainWrite (s : State) : exec .plainWrite s = execPlainWrite s := rfl

section PlainWrite

variable {s : State} {p : Port} {tag : ReqTag} {addr : Addr} {mask : ByteMask} {data : LineData} {i : EntryIx}

/-- A granted plain write with a mask goes to the buffer. -/
theorem plainWrite_presented (o : Offers s p tag (.write addr none mask data)) (hm : mask ≠ 0) :
    present s p ⟨tag, .write addr none mask data⟩ = plainWritePresented s p tag addr mask data := by
  have hfmt : ¬ emptyFails mask = true := by simpa [emptyFails] using hm
  simp only [present, writePresented, if_neg hfmt, if_neg (offered_write_mode o hm)]

/-- PLAIN_WRITE accepts the granted write with what the buffer makes of it. -/
theorem exec_plainWrite_of_presented (o : Offers s p tag (.write addr none mask data)) (hm : mask ≠ 0) {t : State}
    (h : plainWritePresented s p tag addr mask data = some t) :
    exec .plainWrite s = .next (accepted p tag t) := by
  rw [exec_plainWrite, execPlainWrite]
  exact whileRunning_acceptWhere o rfl ((plainWrite_presented o hm).trans h)

/-- A plain write with a target is laid over it and answered (R11). -/
theorem exec_plainWrite_combines (o : Offers s p tag (.write addr none mask data)) (hm : mask ≠ 0) {c : Committed}
    (hc : Combines s p (plainClass s addr) (lineOf addr) i c) :
    exec .plainWrite s =
      .next { answered s p tag .done with
        entries := s.entries.set i
          (.pending { c with data := layOver c.data mask data, mask := c.mask ||| mask }) } := by
  have hp : plainWritePresented s p tag addr mask data = some (place p tag .done (combineInto i c mask data s)) := by
    simp only [plainWritePresented, combineTarget_eq_some.mpr hc]
  have hports : (combineInto i c mask data s).ports = s.ports := rfl
  rw [exec_plainWrite_of_presented o hm hp, accepted_place p tag .done hports]
  rfl

/-- Without a target the lowest FREE entry is allocated, and a write that is not THROUGH is answered. -/
theorem plainWritePresented_of_free (hn : ∀ j c, ¬ Combines s p (plainClass s addr) (lineOf addr) j c)
    (hi : FirstAt s.entries (fun e => e = .free) i) :
    plainWritePresented s p tag addr mask data =
      some (let t := allocatePlain i (newEntry s p tag (plainClass s addr) (lineOf addr) mask data) s
        if plainClass s addr = .through then t else place p tag .done t) := by
  simp only [plainWritePresented, combineTarget_eq_none.mpr hn, lowest_entry hi, Option.map_some]

/-- The state in which PLAIN_WRITE leaves the part when the write is allocated entry `i` (R7). -/
def allocated (s : State) (p : Port) (tag : ReqTag) (addr : Addr) (mask : ByteMask) (data : LineData)
    (i : EntryIx) : State :=
  { (if plainClass s addr = .through then taken s p tag else answered s p tag .done) with
    entries := s.entries.set i (.pending (newEntry s p tag (plainClass s addr) (lineOf addr) mask data))
    commitOrder := s.commitOrder ++ [i]
    pressure := pressureAt s (occupancy s + 1) }

/-- A plain write without a target and with a FREE entry left is allocated the lowest (R6, R7). -/
theorem exec_plainWrite_allocates (o : Offers s p tag (.write addr none mask data)) (hm : mask ≠ 0)
    (hn : ∀ j c, ¬ Combines s p (plainClass s addr) (lineOf addr) j c)
    (hi : FirstAt s.entries (fun e => e = .free) i) :
    exec .plainWrite s = .next (allocated s p tag addr mask data i) := by
  have hports : (allocatePlain i (newEntry s p tag (plainClass s addr) (lineOf addr) mask data) s).ports = s.ports :=
    rfl
  rw [exec_plainWrite_of_presented o hm (plainWritePresented_of_free hn hi), allocated]
  by_cases hthrough : plainClass s addr = .through
  · simp only [if_pos hthrough]
    rw [accepted_of_ports p tag hports, allocatePlain_eq hi.1]
    rfl
  · simp only [if_neg hthrough]
    rw [accepted_place p tag .done hports, allocatePlain_eq hi.1]
    rfl

end PlainWrite

/-! ## The statements about plain writes -/

/-- Settles O18: the search for a target decides `Combines`, and the write is laid over the target it finds. -/
theorem plainWriteCombinesIntoTheTail : Obligations.PlainWriteCombinesIntoTheTail :=
  ⟨fun _ _ _ _ _ _ => combineTarget_eq_some, get_layOver,
    fun _ _ _ _ _ _ _ _ o hm hc => exec_plainWrite_combines o hm hc⟩

/-- Settles O19: the allocation names the covering slots as the blockers, and the entry joins, at the tail, the views
that its line, port and class pass. -/
theorem plainWriteTakesLowestFreeEntry : Obligations.PlainWriteTakesLowestFreeEntry := by
  intro s p tag addr mask data i o hm hn hi
  have hexec := exec_plainWrite_allocates o hm hn hi
  refine ⟨coveringSlots s (lineOf addr), Table.nodup_positions _ _, fun _ => mem_coveringSlots, hexec, ?_⟩
  intro hE t ht
  obtain rfl : allocated s p tag addr mask data i = t := by simpa [hexec] using ht
  have hview := committedView_commit (t := allocated s p tag addr mask data i) hE hi.1 rfl rfl
  refine ⟨fun l => ?_, fun q => ?_, ?_⟩
  · simpa only [lineChain, newEntry, beq_iff_eq, eq_comm (a := lineOf addr) (b := l)] using
      hview fun c => c.line == l
  · simpa only [orderQueue, newEntry, beq_iff_eq, eq_comm (a := p) (b := q)] using hview fun c => c.port == q
  · simpa only [orderedList, newEntry, beq_iff_eq] using hview fun c => c.cls == .ordered

end Sys2Proof.PostingBuffer
end

section
/-! Port order and the ORDERED list (chapter 2): eligibility, and the drain candidate of a port. -/

namespace Sys2Proof.PortOrder

open Sys2Proof.Machine Sys2Proof.Safety

section Candidates

variable {s : State} {i : EntryIx} {c : Committed} {l : List EntryIx}

/-! ## Where a PENDING entry stands (R3, R23) -/

/-- A view of the commit order holds a PENDING entry exactly when the entry's fields pass. -/
theorem mem_committedView_of_pending (hE : EntriesExact s) (hc : s.entry i = .pending c) {f : Committed → Bool} :
    i ∈ committedView s f ↔ f c = true := by
  simp [mem_committedView hE, hc, Entry.committed?]

theorem mem_orderQueue (hE : EntriesExact s) (hc : s.entry i = .pending c) : i ∈ orderQueue s c.port :=
  (mem_committedView_of_pending hE hc).mpr (beq_self_eq_true _)

theorem mem_lineChain (hE : EntriesExact s) (hc : s.entry i = .pending c) : i ∈ lineChain s c.line :=
  (mem_committedView_of_pending hE hc).mpr (beq_self_eq_true _)

theorem mem_orderedList (hE : EntriesExact s) (hc : s.entry i = .pending c) (hcls : c.cls = .ordered) :
    i ∈ orderedList s :=
  (mem_committedView_of_pending hE hc).mpr (beq_iff_eq.mpr hcls)

theorem nodup_orderQueue (hE : EntriesExact s) (p : Port) : (orderQueue s p).Nodup := committedView_nodup hE _

theorem nodup_lineChain (hE : EntriesExact s) (line : Addr) : (lineChain s line).Nodup := committedView_nodup hE _

theorem nodup_orderedList (hE : EntriesExact s) : (orderedList s).Nodup := committedView_nodup hE _

/-! ## The conditions of R34 on older entries -/

/-- In a list that holds the entry once, what stands before it is what `olderIn` finds. -/
theorem olderIssued_iff (hn : l.Nodup) (hi : i ∈ l) :
    olderIssued s l i = true ↔
      ∀ older younger, Stands l i older younger → ∀ j ∈ older, (s.entry j).isIssued = true := by
  rw [stands_older hn hi fun older => ∀ j ∈ older, (s.entry j).isIssued = true, olderIssued, List.all_eq_true]

/-- An entry of a line's chain is not held by the line when no older entry of the chain is PENDING (R4). -/
theorem heldByLine_eq_false_iff {line : Addr} (hE : EntriesExact s) (hi : i ∈ lineChain s line) :
    heldByLine s line i = false ↔
      ∀ older younger, Stands (lineChain s line) i older younger → ∀ j ∈ older, (s.entry j).isPending = false := by
  rw [stands_older (nodup_lineChain hE line) hi fun older => ∀ j ∈ older, (s.entry j).isPending = false, heldByLine]
  simp only [List.any_eq_false, Bool.not_eq_true]

/-- `eligible` tests the rows of R34's table. -/
theorem eligible_iff : eligible s i = true ↔ ∃ c, s.entry i = .pending c ∧ isDue s i = true ∧
    olderIssued s (orderQueue s c.port) i = true ∧ c.blockedBy = [] ∧
    (c.cls = .ordered → olderIssued s (orderedList s) i = true) ∧ heldByLine s c.line i = false := by
  constructor
  · intro h
    obtain ⟨c, hc, hblocked, hport, hordered, hline⟩ := eligible_some h
    have hdue : isDue s i = true := by
      simp only [eligible, hc, Bool.and_eq_true] at h
      obtain ⟨⟨⟨⟨hdue, -⟩, -⟩, -⟩, -⟩ := h
      exact hdue
    exact ⟨c, hc, hdue, hport, hblocked, hordered, hline⟩
  · rintro ⟨c, hc, hdue, hport, hblocked, hordered, hline⟩
    have hcls : c.cls ≠ .ordered ∨ olderIssued s (orderedList s) i = true := imp_iff_not_or.mp hordered
    simpa [eligible, hc, hdue, hport, hblocked, hline] using hcls

/-! ## The oldest PENDING entry (R35) -/

/-- The queue's first PENDING entry is the one with no PENDING entry before it. -/
theorem oldestPending_eq_some {p : Port} : oldestPending s p = some i ↔ (s.entry i).isPending = true ∧
    ∃ older younger, Stands (orderQueue s p) i older younger ∧ ∀ j ∈ older, (s.entry j).isPending = false := by
  simp only [oldestPending, List.find?_eq_some_iff_append, Stands, Bool.not_eq_true']

theorem drainCandidate_eq_some {p : Port} :
    drainCandidate s p = some i ↔ oldestPending s p = some i ∧ eligible s i = true := by
  rw [drainCandidate, Option.filter_eq_some_iff]

theorem isPending_of_eligible (h : eligible s i = true) : (s.entry i).isPending = true := by
  obtain ⟨c, hc, -⟩ := eligible_some h
  exact isPending_iff.mpr ⟨c, hc⟩

end Candidates

/-! ## The statement about eligibility and the drain candidate -/

/-- Settles O30: a PENDING entry stands once in its queue, its chain and, when ORDERED, the ORDERED list, so the
conditions on what stands before it are those that `eligible` tests; an eligible entry is PENDING, so it is its port's
oldest PENDING entry when none stands before it. -/
theorem drainCandidateIsTheOldestPendingWhenEligible :
    Obligations.DrainCandidateIsTheOldestPendingWhenEligible := by
  refine fun s hE => ⟨fun i => ?_, fun p i => ?_⟩
  · rw [eligible_iff]
    refine exists_congr fun c => and_congr_right fun hc => and_congr_right fun _ => ?_
    have hport := olderIssued_iff (s := s) (nodup_orderQueue hE c.port) (mem_orderQueue hE hc)
    have hordered := fun hcls => olderIssued_iff (s := s) (nodup_orderedList hE) (mem_orderedList hE hc hcls)
    have hline := heldByLine_eq_false_iff hE (mem_lineChain hE hc)
    exact and_congr hport (and_congr_right fun _ => and_congr (imp_congr_right hordered) hline)
  · rw [drainCandidate_eq_some, oldestPending_eq_some, and_comm]
    exact and_congr_right fun h => and_iff_right (isPending_of_eligible h)

end Sys2Proof.PortOrder
end

section
/-! The issue of a read (chapters 3 and 6): the arbiter's grant, what the memory port offers, and what ISSUE changes. -/

namespace Sys2Proof.ReadIssue

open Sys2Proof.Machine Sys2Proof.Safety

/-! ## The issue of a grant (R102, R109) -/

theorem exec_issue (s : State) : exec .issue s = execIssue s := rfl

section Grants

variable {s : State} {t : AccessTag} {g : Grant}

/-- ISSUE sends the arbiter's choice under the lowest FREE tag. -/
theorem exec_issue_of_grant (hrun : s.inReset = false) (ht : FirstAt s.accesses (fun a => a = .free) t)
    (hg : chosenGrant s = some g) : exec .issue s = .next (issueGrant g t s) := by
  rw [exec_issue, execIssue, whileRunning_of hrun]
  simp only [issueNow, lowest_access ht, hg]

/-- The memory port offers the access of the arbiter's choice under the lowest FREE tag. -/
theorem offeredAccess_of_grant (hrun : s.inReset = false) (ht : FirstAt s.accesses (fun a => a = .free) t)
    (hg : chosenGrant s = some g) : offeredAccess s = accessOf s t g.owner := by
  simp [offeredAccess, hrun, lowest_access ht, hg]

end Grants

/-! ## The grant of a read (R104, R107) -/

section Reads

variable {s : State} {t : AccessTag} {k : SlotIx} {r : ReadRec}

/-- The grant of slot `k` to the port that `won` names (R104, R107). -/
def grantOfRead (s : State) (won : Port × Bool) (k : SlotIx) : Grant :=
  { owner := .read k
    arbiter :=
      { readRun := min (s.arbiter.readRun + 1) 16, lastClass := .read,
        reads := movePtrs s.arbiter.reads won, drains := s.arbiter.drains } }

/-- In class READ the arbiter grants the candidate of the port that the scan of the rings finds. -/
theorem chosenGrant_of_read {won : Port × Bool} (hclass : choosesDrain s = false)
    (hscan : scanRings s.config.portLow s.arbiter.reads (fun q => (readCandidate s q).isSome) = some won)
    (hk : readCandidate s won.1 = some k) : chosenGrant s = some (grantOfRead s won k) := by
  simp [chosenGrant, hclass, readGrant, hscan, hk, grantOfRead, Config.readRunCeiling]

/-! ## What the issue of a READY slot changes (R53) -/

theorem accessOf_ready (hr : s.slot k = .ready r) : accessOf s t (.read k) = some (.read t r.addr r.len) := by
  simp only [accessOf, hr]

/-- Slot, record and arbiter change beside the blocked-by sets (R109). -/
theorem issueGrant_read (hr : s.slot k = .ready r) (won : Port × Bool) :
    issueGrant (grantOfRead s won k) t s =
      { unblock [k] s with
        slots := s.slots.set k (.issued r t false)
        accesses := s.accesses.set t (.outstanding (.read k) 0)
        arbiter := (grantOfRead s won k).arbiter } := by
  have hslot : issueOwner (grantOfRead s won k).owner t s = unblock [k] (s.setSlot k (.issued r t false)) := by
    simp only [grantOfRead, issueOwner, issueSlot, hr]
  rw [issueGrant, hslot]
  rfl

/-- One slot's number leaves the blocked-by set of every entry (R8). -/
theorem entry_unblock_one (s : State) (k : SlotIx) (i : EntryIx) :
    (unblock [k] s).entry i =
      (s.entry i).mapCommitted fun c => { c with blockedBy := c.blockedBy.filter fun j => j != k } := by
  simp only [entry_unblock, List.contains_cons, List.contains_nil, Bool.or_false, bne]

end Reads

/-! ## The statement about the issue of a read -/

/-- Settles O34: in class READ the arbiter's choice is the granted port's candidate, so the memory port offers that
slot's access, and its issue marks slot, record and arbiter and takes the slot out of every blocked-by set. -/
theorem issueSendsTheReadCandidate : Obligations.IssueSendsTheReadCandidate := by
  intro s t p low k r hrun ht hclass hscan hk hr
  have hgrant : chosenGrant s = some (grantOfRead s (p, low) k) := chosenGrant_of_read hclass hscan hk
  have hoffer := offeredAccess_of_grant hrun ht hgrant
  have hissue := exec_issue_of_grant hrun ht hgrant
  rw [issueGrant_read hr] at hissue
  exact ⟨hoffer.trans (accessOf_ready hr), _, hissue, entry_unblock_one s k, rfl⟩

end Sys2Proof.ReadIssue
end

section
/-! The bundle table (chapter 4): what a release, a commit and a freed context change, and the commands that open, fill,
close, cancel and abort a bundle. -/

namespace Sys2Proof.BundleTable

open Sys2Proof.Machine Sys2Proof.Safety

/-! ## The acceptance of a bundle command -/

theorem exec_memberWrite (s : State) : exec .memberWrite s = execMemberWrite s := rfl

theorem exec_bOpen (s : State) : exec .bOpen s = execBOpen s := rfl

theorem exec_bClose (s : State) : exec .bClose s = execBClose s := rfl

theorem exec_bCancel (s : State) : exec .bCancel s = execBCancel s := rfl

section Acceptance

variable {s t : State} {p : Port} {tag : ReqTag} {l : Lane} {a : Answer}

/-- An acceptance command whose owner answers the granted request at once and leaves the ports alone. -/
theorem acceptWhere_of_answer {row : State → ReqBody → Bool} {b : ReqBody} (o : Offers s p tag b) (hr : row s b = true)
    (h : present s p ⟨tag, b⟩ = some (place p tag a t)) (ht : t.ports = s.ports) :
    whileRunning s (acceptWhere row) = .next { t with ports := (answered s p tag a).ports, intakePtr := p + 1 } := by
  rw [whileRunning_acceptWhere o hr h, accepted_place p tag a ht]

theorem exec_memberWrite_of_answer {addr : Addr} {mask : ByteMask} {data : LineData}
    (o : Offers s p tag (.write addr (some l) mask data)) (hm : mask ≠ 0)
    (h : memberWritePresented s p tag l addr mask data = some (place p tag a t)) (ht : t.ports = s.ports) :
    exec .memberWrite s = .next { t with ports := (answered s p tag a).ports, intakePtr := p + 1 } := by
  rw [exec_memberWrite, execMemberWrite, acceptWhere_of_answer o rfl ((memberWrite_presented o hm).trans h) ht]

theorem exec_bOpen_of_answer (o : Offers s p tag (.bOpen l)) (h : bOpenPresented s p tag l = place p tag a t)
    (ht : t.ports = s.ports) :
    exec .bOpen s = .next { t with ports := (answered s p tag a).ports, intakePtr := p + 1 } := by
  rw [exec_bOpen, execBOpen, acceptWhere_of_answer o rfl (congrArg some h) ht]

theorem exec_bClose_of_answer (o : Offers s p tag (.bClose l)) (h : bClosePresented s p tag l = place p tag a t)
    (ht : t.ports = s.ports) :
    exec .bClose s = .next { t with ports := (answered s p tag a).ports, intakePtr := p + 1 } := by
  rw [exec_bClose, execBClose, acceptWhere_of_answer o rfl (congrArg some h) ht]

theorem exec_bCancel_of_answer (o : Offers s p tag (.bCancel l)) (h : bCancelPresented s p tag l = place p tag a t)
    (ht : t.ports = s.ports) :
    exec .bCancel s = .next { t with ports := (answered s p tag a).ports, intakePtr := p + 1 } := by
  rw [exec_bCancel, execBCancel, acceptWhere_of_answer o rfl (congrArg some h) ht]

end Acceptance

/-! ## The context on a lane (R64) -/

section Lanes

variable {s t : State} {p : Port} {l : Lane} {c : CtxIx} {rank : Rank} {reason : AbortReason}

/-- The ABORTED context of a lane is the one found on it. -/
theorem abortedLane_context (h : LanesAndRanks s) (hc : s.ctx c = .aborted p l rank reason) :
    contextOn s p l = some c :=
  contextOn_of_lane h (by rw [hc, Ctx.laneOf?])

theorem openLane_entriesExact {o : OpenCtx} (h : OpenLane s p l c o) : EntriesExact s := by
  obtain ⟨hE, -, -, -, -⟩ := h
  exact hE

theorem openLane_ctx {o : OpenCtx} (h : OpenLane s p l c o) : s.ctx c = .opened o := by
  obtain ⟨-, -, hc, -, -⟩ := h
  exact hc

theorem openLane_port {o : OpenCtx} (h : OpenLane s p l c o) : o.port = p := by
  obtain ⟨-, -, -, hport, -⟩ := h
  exact hport

/-- A lane is busy as soon as some context stands on it. -/
theorem contextOn_isSome (hc : (s.ctx c).laneOf? = some (p, l)) : (contextOn s p l).isSome = true :=
  lowest_isSome.mpr ⟨c, beq_iff_eq.mpr hc⟩

theorem newRank_eq (h : rank = .first ↔ ∀ d, (s.ctx d).ownedBy p = false) : newRank s p = rank := by
  have hcount : s.contexts.count (Ctx.ownedBy p) = 0 ↔ rank = .first := Table.count_eq_zero.trans h.symm
  cases rank with
  | first => exact if_pos (hcount.mpr rfl)
  | second => exact if_neg (mt hcount.mp (by decide))

theorem freeCtx_eq (c : CtxIx) (s : State) : freeCtx c s = { s with contexts := (freeCtx c s).contexts } := by
  unfold freeCtx
  split <;> rfl

/-- A context that `freeCtx` frees is freed as R64 says, whatever else changed in the same event. -/
theorem ctxFreed_of_freeCtx {u : State} (hl : (s.ctx c).laneOf? = some (p, l)) (hr : (s.ctx c).rank? = some rank)
    (hu : u.contexts = s.contexts) (ht : t.contexts = (freeCtx c u).contexts) : CtxFreed s t c p rank := by
  have hctx : ∀ d, t.ctx d = (freeCtx c u).ctx d := fun d => congrArg (Table.get · d) ht
  have hsame : ∀ d, u.ctx d = s.ctx d := fun d => congrArg (Table.get · d) hu
  refine ⟨by rw [hctx, ctx_freeCtx, if_pos rfl], fun d hd => ?_⟩
  rw [hctx, ctx_freeCtx, if_neg hd, hsame, hsame, hl, hr]
  cases rank with
  | first => simp
  | second => simp

theorem ctxFreed_of_aborted (hc : s.ctx c = .aborted p l rank reason) (ht : t.contexts = (freeCtx c s).contexts) :
    CtxFreed s t c p rank :=
  ctxFreed_of_freeCtx (l := l) (by rw [hc, Ctx.laneOf?]) (by rw [hc, Ctx.rank?]) rfl ht

theorem ctxFreed_of_open {o : OpenCtx} {u : State} (h : OpenLane s p l c o) (hu : u.contexts = s.contexts)
    (ht : t.contexts = (freeCtx c u).contexts) : CtxFreed s t c p o.rank := by
  obtain ⟨-, -, hc, rfl, rfl⟩ := h
  exact ctxFreed_of_freeCtx (l := o.lane) (by rw [hc, Ctx.laneOf?]) (by rw [hc, Ctx.rank?]) hu ht

end Lanes

/-! ## Member writes (R66 to R72) -/

section MemberWrites

variable {s : State} {p : Port} {tag : ReqTag} {l : Lane} {addr : Addr} {mask : ByteMask} {data : LineData} {c : CtxIx}
  {o : OpenCtx} {i : EntryIx} {m : Member}

theorem memberWritePresented_of_noContext (h : ∀ c, (s.ctx c).laneOf? ≠ some (p, l)) :
    memberWritePresented s p tag l addr mask data = some (place p tag (.refused .noBundle) s) := by
  simp only [memberWritePresented, contextOn_eq_none.mpr h]

theorem memberWritePresented_of_aborted {rank : Rank} {reason : AbortReason} (h : LanesAndRanks s)
    (hc : s.ctx c = .aborted p l rank reason) :
    memberWritePresented s p tag l addr mask data = some (place p tag .void s) := by
  simp only [memberWritePresented, abortedLane_context h hc, hc]

theorem memberWritePresented_of_open (h : OpenLane s p l c o) :
    memberWritePresented s p tag l addr mask data = openMemberPresented s p tag c o addr mask data := by
  simp only [memberWritePresented, openLane_context h, openLane_ctx h]

/-- R67: another class than POST aborts the context. -/
theorem openMemberPresented_of_class (hcls : classOf s addr ≠ .post) :
    openMemberPresented s p tag c o addr mask data = some (place p tag (.refused .cls) (abortCtx c .cls s)) :=
  if_neg hcls

/-- R68: the member on the write's line is overlaid. -/
theorem openMemberPresented_of_member (hcls : classOf s addr = .post) (hmem : memberOn s o (lineOf addr) = some (i, m)) :
    openMemberPresented s p tag c o addr mask data = some (place p tag .done (overlayMember c o i m mask data s)) := by
  simp only [openMemberPresented, if_pos hcls, hmem]

/-- A POST member write on a line that the context does not hold needs a new member. -/
theorem openMemberPresented_of_newLine (hcls : classOf s addr = .post)
    (hline : ∀ j ∈ o.members, ∀ m, s.entry j = .member m → m.line ≠ lineOf addr) :
    openMemberPresented s p tag c o addr mask data = newMemberPresented s p tag c o (lineOf addr) mask data := by
  simp only [openMemberPresented, if_pos hcls, memberOn_eq_none hline]

/-- The space check of R70 as `newMemberPresented` makes it. -/
theorem space_check_iff : Config.entryCount - s.config.reserve ≤ memberEntries s ↔
    64 ≤ memberEntries s + s.config.reserve :=
  Nat.sub_le_iff_le_add

/-- One more entry is in use where a FREE one becomes MEMBER (R13). -/
theorem occupancy_member (hi : s.entry i = .free) (m : Member) :
    occupancy (s.setEntry i (.member m)) = occupancy s + 1 := by
  simpa [hi, Entry.isFree] using occ_setEntry s i (.member m)

/-- The whole effect of a member's allocation on a FREE entry (R72, R14). -/
theorem allocateMember_eq (hi : s.entry i = .free) (line : Addr) :
    allocateMember c o i line mask data s =
      { s with
        entries := s.entries.set i (.member { line := line, data := data, mask := mask, port := o.port })
        contexts := s.contexts.set c (.opened { o with members := o.members ++ [i], idle := 0 })
        pressure := pressureAt s (occupancy s + 1) } := by
  rw [← occupancy_member hi { line := line, data := data, mask := mask, port := o.port }]
  rfl

theorem abortCtx_ports (c : CtxIx) (reason : AbortReason) (s : State) : (abortCtx c reason s).ports = s.ports := by
  simp

/-- A member write that aborts its context is answered on the state that the abort leaves. -/
theorem exec_memberWrite_of_abort {reason : AbortReason} {a : Answer}
    (ho : Offers s p tag (.write addr (some l) mask data)) (hm : mask ≠ 0)
    (h : memberWritePresented s p tag l addr mask data = some (place p tag a (abortCtx c reason s))) :
    exec .memberWrite s = .next (answered (abortCtx c reason s) p tag a) := by
  have hports := abortCtx_ports c reason s
  rw [exec_memberWrite_of_answer ho hm h hports]
  simp only [answered, answeredPort, takenPort, State.port, hports]

end MemberWrites

/-- Settles O20: the context's list holds one member on the line, so the search finds the one given, and the write is
laid over it. -/
theorem memberWriteOverlaysItsLine : Obligations.MemberWriteOverlaysItsLine := by
  intro s p tag l addr mask data c o i m ho hm hlane hcls hi he hline
  have hmember := memberOn_eq (openLane_entriesExact hlane) (openLane_ctx hlane) hi he hline
  have hpres : memberWritePresented s p tag l addr mask data =
      some (place p tag .done (overlayMember c o i m mask data s)) :=
    (memberWritePresented_of_open hlane).trans (openMemberPresented_of_member hcls hmember)
  exact exec_memberWrite_of_answer ho hm hpres rfl

/-- Settles O21: with quota, space and reserve passed the lowest FREE entry becomes the context's last member, owned by
the context's port. -/
theorem memberWriteTakesLowestFreeEntry : Obligations.MemberWriteTakesLowestFreeEntry := by
  intro s p tag l addr mask data c o i ho hm hlane hcls hline hquota hspace hreserve hi
  obtain rfl := openLane_port hlane
  have hnew : newMemberPresented s o.port tag c o (lineOf addr) mask data =
      some (place o.port tag .done (allocateMember c o i (lineOf addr) mask data s)) := by
    simp only [newMemberPresented, if_neg hquota.not_ge, if_neg (mt space_check_iff.mp hspace.not_ge),
      if_neg hreserve.not_gt, lowest_entry hi, Option.map_some]
  have hpres := (memberWritePresented_of_open hlane).trans ((openMemberPresented_of_newLine hcls hline).trans hnew)
  rw [exec_memberWrite_of_answer ho hm hpres rfl, allocateMember_eq hi.1]
  rfl

/-- Settles O22: each row of R66, R67, R69 and R70 fixes what the bundle table presents, and where it aborts the context
the answer is placed on the state after the abort. -/
theorem memberWriteRefusedOrVoid : Obligations.MemberWriteRefusedOrVoid := by
  intro s p tag l addr mask data ho hm
  refine ⟨fun h => ?_, fun c rank reason h hc => ?_, fun c o hlane => ⟨fun hcls => ?_, fun hcls hline => ?_⟩⟩
  · exact exec_memberWrite_of_answer ho hm (memberWritePresented_of_noContext h) rfl
  · exact exec_memberWrite_of_answer ho hm (memberWritePresented_of_aborted h hc) rfl
  · exact exec_memberWrite_of_abort ho hm
      ((memberWritePresented_of_open hlane).trans (openMemberPresented_of_class hcls))
  · have hnew := (memberWritePresented_of_open hlane).trans
      (openMemberPresented_of_newLine (tag := tag) (mask := mask) (data := data) hcls hline)
    refine ⟨fun hquota => ?_, fun hquota hspace => ?_⟩
    · exact exec_memberWrite_of_abort ho hm (hnew.trans (if_pos hquota))
    · exact exec_memberWrite_of_abort ho hm
        (hnew.trans ((if_neg hquota.not_ge).trans (if_pos (space_check_iff.mpr hspace))))

/-! ## Releases (R14, R77, R149) -/

/-- `t` is `s` after releases: no entry more is in use, and pressure flag and mode follow from `s` and the occupancy
left. -/
structure Released (s t : State) : Prop where
  occ : occupancy t ≤ occupancy s
  pressure : t.pressure = pressureAt s (occupancy t)
  mode : ModeFollows s t
  frame : t = { s with entries := t.entries, contexts := t.contexts, pressure := t.pressure, mode := t.mode,
                       modeEvent := t.modeEvent }

section Releases

variable {s t u : State} {c : CtxIx} {reason : AbortReason}

theorem pressureAt_occupancy (h : PressureAgrees s) : pressureAt s (occupancy s) = s.pressure := by
  obtain ⟨hhigh, hlow⟩ := h
  unfold pressureAt
  split_ifs with h1 h2
  · exact (hhigh h1).symm
  · exact (hlow h2).symm
  · rfl

/-- Evaluations at falling occupancies come to one evaluation at the last (R14). -/
theorem pressureAt_of_released (h : PressureAgrees s) (hst : Released s t) {n : Nat} (hn : n ≤ occupancy t) :
    pressureAt t n = pressureAt s n := by
  obtain ⟨hhighSet, -⟩ := h
  have hconfig : t.config = s.config := by rw [hst.frame]
  have hpressure := hst.pressure
  have hocc := hst.occ
  unfold pressureAt at hpressure ⊢
  rw [hconfig]
  split_ifs with hhigh hlow
  · rfl
  · rfl
  · split_ifs at hpressure with hthigh htlow
    · rw [hpressure, hhighSet (hthigh.trans hocc)]
    · exact absurd (hn.trans htlow) hlow
    · exact hpressure

/-- QUIESCED reached after one of two releases is QUIESCED reached after both (R149). -/
theorem modeFollows_trans (hst : ModeFollows s t) (htu : ModeFollows t u) (hle : occupancy u ≤ occupancy t) :
    ModeFollows s u := by
  obtain ⟨hreach, hstay⟩ := hst
  obtain ⟨hreach', hstay'⟩ := htu
  by_cases h : s.mode = .quiescing ∧ occupancy t = 0
  · obtain ⟨hquiescing, hempty⟩ := h
    obtain ⟨hmode, hevent⟩ := hreach hquiescing hempty
    obtain ⟨hmode', hevent'⟩ := hstay' (by simp [hmode])
    have hempty' : occupancy u = 0 := Nat.le_zero.mp (hempty ▸ hle)
    exact ⟨fun _ _ => ⟨hmode'.trans hmode, hevent'.trans hevent⟩, fun hn => absurd ⟨hquiescing, hempty'⟩ hn⟩
  · obtain ⟨hmode, hevent⟩ := hstay h
    rw [hmode] at hreach' hstay'
    rw [hevent] at hstay'
    exact ⟨hreach', hstay'⟩

/-- Where no entry was released, pressure flag and mode are what they were. -/
theorem Released.refl (hP : PressureAgrees s) (hM : ModeAgrees s) : Released s s where
  occ := le_rfl
  pressure := (pressureAt_occupancy hP).symm
  mode := ⟨fun hq h0 => absurd h0 (hM.quiescing hq), fun _ => ⟨rfl, rfl⟩⟩
  frame := rfl

theorem Released.trans (hP : PressureAgrees s) (hst : Released s t) (htu : Released t u) : Released s u where
  occ := htu.occ.trans hst.occ
  pressure := htu.pressure.trans (pressureAt_of_released hP hst htu.occ)
  mode := modeFollows_trans hst.mode htu.mode htu.occ
  frame := by rw [htu.frame, hst.frame]

/-- What follows a change of entries and contexts that puts no entry in use is a release. -/
theorem released_afterRelease (hocc : occupancy u ≤ occupancy s)
    (hu : u = { s with entries := u.entries, contexts := u.contexts }) : Released s (afterRelease u) where
  occ := (occ_eq (by simp : (afterRelease u).entries = u.entries)).trans_le hocc
  pressure := afterRelease_pressure s u (by rw [hu]) (by rw [hu])
  mode := afterRelease_modeFollows s u (by rw [hu]) (by rw [hu])
  frame := by
    have hentries : (afterRelease u).entries = u.entries := by simp
    have hcontexts : (afterRelease u).contexts = u.contexts := by simp
    rw [hentries, hcontexts, afterRelease_eq]
    generalize (afterRelease u).pressure = pressure, (afterRelease u).mode = mode, (afterRelease u).modeEvent = event
    rw [hu]

theorem occupancy_releaseEntries_le (l : List EntryIx) (s : State) : occupancy (releaseEntries l s) ≤ occupancy s := by
  refine occ_mono fun i hi => ?_
  rw [entry_releaseEntries]
  split_ifs
  · rfl
  · exact hi

/-! ## The abort of a context (R77) -/

/-- The members of an OPEN context. -/
def membersOf : Ctx → List EntryIx
  | .opened o => o.members
  | _ => []

/-- A context after the abort for a reason: one that is not OPEN stays as it is (R77). -/
def abortedFor (reason : AbortReason) : Ctx → Ctx
  | .opened o => .aborted o.port o.lane o.rank reason
  | x => x

@[simp] theorem membersOf_abortedFor (reason : AbortReason) (x : Ctx) : membersOf (abortedFor reason x) = [] := by
  cases x <;> rfl

@[simp] theorem abortedFor_abortedFor (reason : AbortReason) (x : Ctx) :
    abortedFor reason (abortedFor reason x) = abortedFor reason x := by
  cases x <;> rfl

theorem membersOf_of_not_open {x : Ctx} (h : x.isOpen = false) : membersOf x = [] := by
  cases x with
  | opened o => cases h
  | free => rfl
  | aborted => rfl

theorem abortedFor_of_not_open {x : Ctx} (h : x.isOpen = false) : abortedFor reason x = x := by
  cases x with
  | opened o => cases h
  | free => rfl
  | aborted => rfl

theorem mem_membersOf {x : Ctx} {i : EntryIx} : i ∈ membersOf x ↔ ∃ o, x = .opened o ∧ i ∈ o.members := by
  cases x <;> simp [membersOf]

theorem abortCtx_of_open {o : OpenCtx} (hc : s.ctx c = .opened o) (reason : AbortReason) :
    abortCtx c reason s =
      afterRelease ((releaseEntries o.members s).setCtx c (.aborted o.port o.lane o.rank reason)) := by
  simp only [abortCtx, hc]

theorem abortCtx_of_not_open (hc : (s.ctx c).isOpen = false) (reason : AbortReason) : abortCtx c reason s = s := by
  unfold abortCtx
  split
  next o ho => rw [ho] at hc; cases hc
  next => rfl

theorem ctx_abortCtx (c d : CtxIx) (reason : AbortReason) (s : State) :
    (abortCtx c reason s).ctx d = if d = c then abortedFor reason (s.ctx d) else s.ctx d := by
  split_ifs with hd
  · subst hd
    cases hx : (s.ctx d).isOpen with
    | false => rw [abortCtx_of_not_open hx, abortedFor_of_not_open hx]
    | true =>
      obtain ⟨o, ho⟩ := isOpen_iff.mp hx
      rw [abortCtx_of_open ho, ho]
      simp [State.ctx, abortedFor]
  · exact abortCtx_ctx_ne c d reason s hd

theorem entry_abortCtx (c : CtxIx) (reason : AbortReason) (s : State) (i : EntryIx) :
    (abortCtx c reason s).entry i = if i ∈ membersOf (s.ctx c) then .free else s.entry i := by
  cases hx : (s.ctx c).isOpen with
  | false =>
    rw [abortCtx_of_not_open hx, membersOf_of_not_open hx, if_neg List.not_mem_nil]
  | true =>
    obtain ⟨o, ho⟩ := isOpen_iff.mp hx
    have hentries : (abortCtx c reason s).entries = (releaseEntries o.members s).entries := by
      simp [abortCtx_of_open ho]
    rw [entry_of_entries hentries, entry_releaseEntries, ho, membersOf]

theorem released_abortCtx {o : OpenCtx} (hc : s.ctx c = .opened o) (reason : AbortReason) :
    Released s (abortCtx c reason s) := by
  rw [abortCtx_of_open hc]
  exact released_afterRelease (occupancy_releaseEntries_le o.members s) rfl

/-! ## The abort of every context (R81) -/

/-- Aborts that follow one another are one release. -/
theorem released_foldl_abort (hP : PressureAgrees s) (l : List CtxIx) (hst : Released s t) :
    Released s (l.foldl (fun t c => abortCtx c reason t) t) := by
  induction l generalizing t with
  | nil => exact hst
  | cons c l ih =>
    rw [List.foldl_cons]
    refine ih ?_
    cases hx : (t.ctx c).isOpen with
    | false => rwa [abortCtx_of_not_open hx]
    | true =>
      obtain ⟨o, ho⟩ := isOpen_iff.mp hx
      exact hst.trans hP (released_abortCtx ho reason)

theorem ctx_foldl_abort (l : List CtxIx) (s : State) (d : CtxIx) :
    (l.foldl (fun t c => abortCtx c reason t) s).ctx d =
      if d ∈ l then abortedFor reason (s.ctx d) else s.ctx d := by
  induction l generalizing s with
  | nil => rfl
  | cons c l ih =>
    rw [List.foldl_cons, ih, ctx_abortCtx]
    by_cases hd : d = c <;> by_cases hl : d ∈ l <;> simp [hd, hl]

theorem entry_foldl_abort (l : List CtxIx) (s : State) (i : EntryIx) :
    (l.foldl (fun t c => abortCtx c reason t) s).entry i =
      if ∃ c ∈ l, i ∈ membersOf (s.ctx c) then .free else s.entry i := by
  induction l generalizing s with
  | nil => simp
  | cons c l ih =>
    have hrest : (∃ d ∈ l, i ∈ membersOf ((abortCtx c reason s).ctx d)) ↔
        ∃ d ∈ l, d ≠ c ∧ i ∈ membersOf (s.ctx d) := by
      refine exists_congr fun d => and_congr_right fun _ => ?_
      rw [ctx_abortCtx]
      by_cases hd : d = c <;> simp [hd]
    rw [List.foldl_cons, ih, entry_abortCtx, if_congr hrest rfl rfl]
    by_cases hc : i ∈ membersOf (s.ctx c)
    · simp [hc]
    · have hne : ∀ d, i ∈ membersOf (s.ctx d) → d ≠ c := by
        rintro d hd rfl
        exact hc hd
      have hall : (∃ d ∈ l, d ≠ c ∧ i ∈ membersOf (s.ctx d)) ↔ ∃ d ∈ c :: l, i ∈ membersOf (s.ctx d) := by
        simp only [List.exists_mem_cons_iff, hc, false_or]
        exact exists_congr fun d => and_congr_right fun _ => and_iff_right_of_imp (hne d)
      rw [if_neg hc, if_congr hall rfl rfl]

theorem ctx_abortAllBundles (s : State) (d : CtxIx) : (abortAllBundles s).ctx d = abortedFor .maint (s.ctx d) := by
  rw [abortAllBundles, ctx_foldl_abort]
  split_ifs with hd
  · rfl
  · have hclosed : (s.ctx d).isOpen = false := by simpa using hd
    exact (abortedFor_of_not_open hclosed).symm

/-- The entries that some port's OPEN context holds are those of the contexts that are aborted. -/
theorem exists_memberOf_iff {i : EntryIx} :
    (∃ p, MemberOf s p i) ↔ ∃ c ∈ s.contexts.positions Ctx.isOpen, i ∈ membersOf (s.ctx c) := by
  simp only [MemberOf, mem_membersOf, Table.mem_positions, isOpen_iff]
  constructor
  · rintro ⟨_, c, o, hc, -, hi⟩
    exact ⟨c, ⟨o, hc⟩, o, hc, hi⟩
  · rintro ⟨c, -, o, hc, hi⟩
    exact ⟨o.port, c, o, hc, rfl, hi⟩

theorem entry_abortAllBundles_of_member {p : Port} {i : EntryIx} (h : MemberOf s p i) :
    (abortAllBundles s).entry i = .free := by
  rw [abortAllBundles, entry_foldl_abort, if_pos (exists_memberOf_iff.mp ⟨p, h⟩)]

theorem entry_abortAllBundles_of_not_member {i : EntryIx} (h : ∀ p, ¬ MemberOf s p i) :
    (abortAllBundles s).entry i = s.entry i := by
  rw [abortAllBundles, entry_foldl_abort, if_neg (mt exists_memberOf_iff.mpr (not_exists.mpr h))]

end Releases

theorem exec_abortBundles (s : State) : exec .abortBundles s = execAbortBundles s := rfl

/-- Settles O24: the aborts touch each context once and each member once, and as occupancy only falls their evaluations
come to the evaluation at the occupancy left. -/
theorem abortBundlesAbortsEveryOpenContext : Obligations.AbortBundlesAbortsEveryOpenContext := by
  intro s hrun _ hP hM
  have hrel : Released s (abortAllBundles s) := released_foldl_abort hP _ (Released.refl hP hM)
  refine ⟨abortAllBundles s, ?_, fun c o hc => ?_, fun c hc => ?_, fun p i h => entry_abortAllBundles_of_member h,
    fun i h => entry_abortAllBundles_of_not_member h, hrel.pressure, hrel.mode, hrel.frame⟩
  · rw [exec_abortBundles, execAbortBundles, whileRunning_of hrun]
    rfl
  · rw [ctx_abortAllBundles, hc, abortedFor]
  · rw [ctx_abortAllBundles, abortedFor_of_not_open hc]

/-! ## B-OPEN (R65) -/

/-- Settles O25: each row of R65 is the first condition that holds of those that `bOpenPresented` tests. -/
theorem bOpenTakesTheFirstRow : Obligations.BOpenTakesTheFirstRow := by
  intro s p tag l ho
  refine ⟨fun hpass => ?_, fun hq => ?_, fun hrun => ⟨fun c hc => ?_, fun hlane => ⟨fun hfull => ?_, ?_⟩⟩⟩
  · have hpres : bOpenPresented s p tag l = place p tag (.refused .mode) s := if_pos hpass
    exact exec_bOpen_of_answer ho hpres rfl
  · have hpass : s.mode ≠ .pass := by rcases hq with h | h <;> simp [h]
    have hpres : bOpenPresented s p tag l = place p tag (.retry .quiesce) s := (if_neg hpass).trans (if_pos hq)
    exact exec_bOpen_of_answer ho hpres rfl
  · have hpres : bOpenPresented s p tag l = place p tag (.refused .laneBusy) s := by
      simp [bOpenPresented, hrun, contextOn_isSome hc]
    exact exec_bOpen_of_answer ho hpres rfl
  · have hnone : s.contexts.lowest Ctx.isFree = none :=
      Table.lowest_none.mpr fun c => Bool.eq_false_iff.mpr (mt isFree_ctx.mp (hfull c))
    have hpres : bOpenPresented s p tag l = place p tag (.retry .noContext) s := by
      simp [bOpenPresented, hrun, contextOn_eq_none.mpr hlane, hnone]
    exact exec_bOpen_of_answer ho hpres rfl
  · intro c rank hc hrank
    have hpres : bOpenPresented s p tag l = place p tag .done
        (s.setCtx c (.opened { port := p, lane := l, rank := rank, members := [], idle := 0 })) := by
      simp [bOpenPresented, hrun, contextOn_eq_none.mpr hlane, lowest_ctx hc, newRank_eq hrank]
    exact exec_bOpen_of_answer ho hpres rfl

/-! ## B-CLOSE (R74, R75) -/

section Close

variable {s t : State} {p : Port} {tag : ReqTag} {l : Lane} {c : CtxIx} {o : OpenCtx} {i : EntryIx}

/-- The state in which B_CLOSE leaves the part when it commits the members of an OPEN context (R74). -/
def committed (s : State) (p : Port) (tag : ReqTag) (c : CtxIx) (o : OpenCtx) : State :=
  { answered s p tag .done with
    entries := (commitMembers o.members s).entries
    contexts := (freeCtx c (commitMembers o.members s)).contexts
    commitOrder := s.commitOrder ++ o.members }

theorem exec_bClose_of_noContext (ho : Offers s p tag (.bClose l)) (h : ∀ c, (s.ctx c).laneOf? ≠ some (p, l)) :
    exec .bClose s = .next (answered s p tag (.refused .noBundle)) := by
  have hpres : bClosePresented s p tag l = place p tag (.refused .noBundle) s := by
    simp only [bClosePresented, contextOn_eq_none.mpr h]
  exact exec_bClose_of_answer ho hpres rfl

theorem exec_bClose_of_aborted {rank : Rank} {reason : AbortReason} (ho : Offers s p tag (.bClose l))
    (h : LanesAndRanks s) (hc : s.ctx c = .aborted p l rank reason) :
    exec .bClose s =
      .next { answered s p tag (.aborted reason) with contexts := (freeCtx c s).contexts } := by
  have hpres : bClosePresented s p tag l = place p tag (.aborted reason) (freeCtx c s) := by
    simp only [bClosePresented, abortedLane_context h hc, hc]
  rw [exec_bClose_of_answer ho hpres (by simp), freeCtx_eq]
  rfl

theorem exec_bClose_of_open (ho : Offers s p tag (.bClose l)) (h : OpenLane s p l c o) :
    exec .bClose s = .next (committed s p tag c o) := by
  have hpres : bClosePresented s p tag l = place p tag .done (freeCtx c (commitMembers o.members s)) := by
    simp only [bClosePresented, openLane_context h, openLane_ctx h]
  rw [exec_bClose_of_answer ho hpres (by simp), freeCtx_eq]
  rfl

theorem entry_committed (i : EntryIx) :
    (committed s p tag c o).entry i = if i ∈ o.members then commitMember s (s.entry i) else s.entry i :=
  entry_commitMembers o.members s i

theorem exists_member (h : OpenLane s p l c o) (hi : i ∈ o.members) : ∃ m, s.entry i = .member m ∧ m.port = p := by
  obtain ⟨-, hM⟩ := openLane_entriesExact h
  obtain rfl := openLane_port h
  exact hM.member c o (openLane_ctx h) i hi

/-- A committed entry is none of a context's members. -/
theorem not_mem_members_of_mem_commitOrder (h : OpenLane s p l c o) (hi : i ∈ s.commitOrder) : i ∉ o.members := by
  obtain ⟨⟨-, horder⟩, -⟩ := openLane_entriesExact h
  intro hmem
  obtain ⟨m, hm, -⟩ := exists_member h hmem
  simpa [hm, Entry.committed?] using (horder i).mp hi

/-- Every view of the commit order keeps its entries, and the members that pass join it as one run at its tail (R74). -/
theorem committedView_committed (h : OpenLane s p l c o) (f : Committed → Bool) :
    committedView (committed s p tag c o) f =
      committedView s f ++ o.members.filter fun i => ((committed s p tag c o).entry i).committedWith f :=
  committedView_append f rfl fun i hi => by
    rw [entry_committed, if_neg (not_mem_members_of_mem_commitOrder h hi)]

/-- The members commit with the port of their context and class POST (R74). -/
theorem committedWith_committed (h : OpenLane s p l c o) (hi : i ∈ o.members) {f : Committed → Bool} {b : Bool}
    (hf : ∀ a, a.port = p → a.cls = .post → f a = b) :
    ((committed s p tag c o).entry i).committedWith f = b := by
  obtain ⟨m, hm, hport⟩ := exists_member h hi
  rw [entry_committed, if_pos hi, hm]
  exact hf _ hport rfl

/-- A test that a member's port and class decide lets every member into its view, or none. -/
theorem committedView_committed_const (h : OpenLane s p l c o) {f : Committed → Bool} {b : Bool}
    (hf : ∀ a, a.port = p → a.cls = .post → f a = b) :
    committedView (committed s p tag c o) f = committedView s f ++ if b then o.members else [] := by
  have hall : ∀ i ∈ o.members, ((committed s p tag c o).entry i).committedWith f = b :=
    fun i hi => committedWith_committed h hi hf
  rw [committedView_committed h]
  cases b with
  | true => simpa using hall
  | false => simpa using hall

end Close

/-- Settles O26: the members are MEMBER entries of the port, so each becomes PENDING with the slots that cover its line
as blockers, and the commit order takes the list as its last run. -/
theorem bCloseCommitsTheMembers : Obligations.BCloseCommitsTheMembers := by
  intro s p tag l ho
  refine ⟨exec_bClose_of_noContext ho, fun c rank reason h hc => ?_, fun c o h => ?_⟩
  · exact ⟨_, exec_bClose_of_aborted ho h hc, ctxFreed_of_aborted hc rfl, rfl⟩
  · have hfreed : CtxFreed s (committed s p tag c o) c p o.rank :=
      ctxFreed_of_open (u := commitMembers o.members s) h rfl rfl
    refine ⟨_, exec_bClose_of_open ho h, hfreed, fun i m hi hm => ?_, fun i hi => ?_,
      fun line => committedView_committed h _, fun q => ?_, ?_, rfl⟩
    · refine ⟨coveringSlots s m.line, Table.nodup_positions _ _, fun _ => mem_coveringSlots, ?_⟩
      rw [entry_committed, if_pos hi, hm, commitMember]
    · rw [entry_committed, if_neg hi]
    · have hview := committedView_committed_const (tag := tag) h (f := fun a => a.port == q) (b := q == p)
        fun a ha _ => by rw [ha, BEq.comm]
      simpa only [orderQueue, beq_iff_eq] using hview
    · have hview := committedView_committed_const (tag := tag) h (f := fun a => a.cls == .ordered) (b := false)
        fun a _ ha => by rw [ha]; rfl
      simpa only [orderedList, Bool.false_eq_true, if_false, List.append_nil] using hview

/-! ## B-CANCEL (R76) -/

section Cancel

variable {s : State} {p : Port} {tag : ReqTag} {l : Lane} {c : CtxIx} {o : OpenCtx}

/-- The bundle table after the cancel of an OPEN context (R76). -/
def cancelled (s : State) (c : CtxIx) (o : OpenCtx) : State := afterRelease (freeCtx c (releaseEntries o.members s))

theorem exec_bCancel_of_noContext (ho : Offers s p tag (.bCancel l)) (h : ∀ c, (s.ctx c).laneOf? ≠ some (p, l)) :
    exec .bCancel s = .next (answered s p tag (.refused .noBundle)) := by
  have hpres : bCancelPresented s p tag l = place p tag (.refused .noBundle) s := by
    simp only [bCancelPresented, contextOn_eq_none.mpr h]
  exact exec_bCancel_of_answer ho hpres rfl

theorem exec_bCancel_of_aborted {rank : Rank} {reason : AbortReason} (ho : Offers s p tag (.bCancel l))
    (h : LanesAndRanks s) (hc : s.ctx c = .aborted p l rank reason) :
    exec .bCancel s = .next { answered s p tag .done with contexts := (freeCtx c s).contexts } := by
  have hpres : bCancelPresented s p tag l = place p tag .done (freeCtx c s) := by
    simp only [bCancelPresented, abortedLane_context h hc, hc]
  rw [exec_bCancel_of_answer ho hpres (by simp), freeCtx_eq]
  rfl

theorem exec_bCancel_of_open (ho : Offers s p tag (.bCancel l)) (h : OpenLane s p l c o) :
    exec .bCancel s =
      .next { cancelled s c o with ports := (answered s p tag .done).ports, intakePtr := p + 1 } := by
  have hpres : bCancelPresented s p tag l = place p tag .done (cancelled s c o) := by
    simp only [bCancelPresented, openLane_context h, openLane_ctx h, cancelled]
  exact exec_bCancel_of_answer ho hpres (by simp [cancelled])

theorem released_cancelled (s : State) (c : CtxIx) (o : OpenCtx) : Released s (cancelled s c o) := by
  have hentries : (freeCtx c (releaseEntries o.members s)).entries = (releaseEntries o.members s).entries := by simp
  refine released_afterRelease ((occ_eq hentries).trans_le (occupancy_releaseEntries_le o.members s)) ?_
  rw [freeCtx_eq]
  rfl

theorem entry_cancelled (s : State) (c : CtxIx) (o : OpenCtx) (i : EntryIx) :
    (cancelled s c o).entry i = if i ∈ o.members then .free else s.entry i := by
  have hentries : (cancelled s c o).entries = (releaseEntries o.members s).entries := by simp [cancelled]
  rw [entry_of_entries hentries, entry_releaseEntries]

theorem contexts_cancelled (s : State) (c : CtxIx) (o : OpenCtx) :
    (cancelled s c o).contexts = (freeCtx c (releaseEntries o.members s)).contexts := by
  simp [cancelled]

end Cancel

/-- Settles O27: the cancel of an OPEN context is a release of its members, whose acceptance changes port and pointer
beside it. -/
theorem bCancelReleasesTheMembers : Obligations.BCancelReleasesTheMembers := by
  intro s p tag l ho
  refine ⟨exec_bCancel_of_noContext ho, fun c rank reason h hc => ?_, fun c o h => ?_⟩
  · exact ⟨_, exec_bCancel_of_aborted ho h hc, ctxFreed_of_aborted hc rfl, rfl⟩
  · have hrel := released_cancelled s c o
    refine ⟨_, exec_bCancel_of_open ho h, ?_, entry_cancelled s c o, hrel.pressure, hrel.mode, ?_⟩
    · exact ctxFreed_of_open (u := releaseEntries o.members s) h rfl (contexts_cancelled s c o)
    · have hframe := hrel.frame
      generalize cancelled s c o = t at hframe ⊢
      rw [hframe]
      rfl

end Sys2Proof.BundleTable
end

section
/-! The scan of the arbiter's rings (chapter 6, R106 and R107): what a scan grants, by the distances of the positions
from the pointers. -/

namespace Sys2Proof.RingScan

open Sys2Proof.Machine Sys2Proof.Safety

/-! ## The cyclic order of a ring -/

theorem highPositions_eq (h : Fin 5) : highPositions h = (List.finRange 5).map (h + ·) := by
  simp [highPositions, List.finRange_succ]

theorem portsFrom_eq (p : Port) : portsFrom p = (List.finRange 4).map (p + ·) := by
  simp [portsFrom, List.finRange_succ]

section Rings

variable {n : Nat} [NeZero n] {β : Type} {f : Fin n → Option β} {h : Fin n}

/-- A scan of a whole ring from `h` on takes what it finds at the position nearest after `h` where it finds something. -/
theorem findSome?_ring_eq_some {b : β} :
    ((List.finRange n).map (h + ·)).findSome? f = some b ↔ ∃ x, f x = some b ∧ ∀ y, y - h < x - h → f y = none := by
  rw [List.findSome?_map, ← Fin.findSome?_eq_findSome?_finRange, Fin.findSome?_eq_some_iff]
  constructor
  · rintro ⟨d, hd, hbefore⟩
    exact ⟨h + d, hd, fun y hy => by simpa using hbefore (y - h) (by simpa using hy)⟩
  · rintro ⟨x, hx, hbefore⟩
    exact ⟨x - h, by simpa using hx, fun d hd => hbefore (h + d) (by simpa using hd)⟩

/-- A scan of a whole ring passes every position. -/
theorem findSome?_ring_eq_none : ((List.finRange n).map (h + ·)).findSome? f = none ↔ ∀ x, f x = none := by
  rw [List.findSome?_map, ← Fin.findSome?_eq_findSome?_finRange, Fin.findSome?_eq_none_iff]
  exact ⟨fun hall x => by simpa using hall (x - h), fun hall d => hall (h + d)⟩

end Rings

section Scan

variable {low : Table Bool 4} {l : Fin 4} {has : Port → Bool} {p : Port}

/-! ## The scan of the low ring -/

/-- The scan that the LOW slot stands for grants the nearest low-group port with a candidate. -/
theorem lowScan_eq_some :
    ((portsFrom l).find? fun q => low.get q && has q) = some p ↔
      has p = true ∧ low.get p = true ∧ ∀ q, has q = true → low.get q = true → (p - l).val ≤ (q - l).val := by
  have hnearest : (∀ q, q - l < p - l → (low.get q && has q) = false) ↔
      ∀ q, has q = true → low.get q = true → (p - l).val ≤ (q - l).val := by
    refine forall_congr' fun q => ?_
    rw [← Fin.le_def, ← not_lt, Bool.and_comm, Bool.and_eq_false_imp]
    grind
  rw [portsFrom_eq, ← List.findSome?_guard, findSome?_ring_eq_some]
  simp only [Option.guard_eq_some_iff, Option.guard_eq_none_iff, Bool.and_eq_true, and_assoc, exists_eq_left, hnearest]
  exact and_left_comm

theorem lowScan_eq_none :
    ((portsFrom l).find? fun q => low.get q && has q) = none ↔ ∀ q, has q = true → low.get q = false := by
  rw [portsFrom_eq, ← List.findSome?_guard, findSome?_ring_eq_none]
  refine forall_congr' fun q => ?_
  rw [Option.guard_eq_none_iff, Bool.and_comm, Bool.and_eq_false_imp]

/-! ## One position of the high ring -/

/-- LOW is the last of the high ring's positions. -/
theorem last_eq_low : Fin.last 4 = (4 : Fin 5) := rfl

/-- No port stands where LOW stands. -/
theorem castSucc_ne_low (q : Port) : q.castSucc ≠ (4 : Fin 5) := Fin.castSucc_ne_last q

/-- At a port's own position the scan finds the port itself. -/
theorem scanPosition_castSucc (q : Port) :
    scanPosition low l has q.castSucc = if low.get q = false ∧ has q = true then some (q, false) else none := by
  have hport : Fin.ofNat 4 q.castSucc.val = q := by simp
  simp only [scanPosition, if_neg (castSucc_ne_low q), hport, Bool.and_eq_true, Bool.not_eq_true']

theorem scanPosition_low :
    scanPosition low l has 4 = ((portsFrom l).find? fun q => low.get q && has q).map fun q => (q, true) := rfl

theorem scanPosition_eq_high {x : Fin 5} :
    scanPosition low l has x = some (p, false) ↔ x = p.castSucc ∧ has p = true ∧ low.get p = false := by
  cases x using Fin.lastCases with
  | last => simp [last_eq_low, scanPosition_low, (castSucc_ne_low p).symm]
  | cast q =>
    rw [scanPosition_castSucc, Fin.castSucc_inj]
    grind

theorem scanPosition_eq_low {x : Fin 5} :
    scanPosition low l has x = some (p, true) ↔ x = 4 ∧ has p = true ∧ low.get p = true ∧
      ∀ q, has q = true → low.get q = true → (p - l).val ≤ (q - l).val := by
  rw [← lowScan_eq_some]
  cases x using Fin.lastCases with
  | last => simp [last_eq_low, scanPosition_low]
  | cast q =>
    simp [scanPosition_castSucc, castSucc_ne_low q]

/-- The scan finds nothing at the positions nearer than `d`: every high-group port with a candidate is at `d` or further,
and so is LOW where a low-group port has one. -/
theorem nothing_before_iff {h d : Fin 5} :
    (∀ y, y - h < d → scanPosition low l has y = none) ↔
      (∀ q : Port, has q = true → low.get q = false → d ≤ q.castSucc - h) ∧
        ∀ q : Port, has q = true → low.get q = true → d ≤ 4 - h := by
  rw [Fin.forall_fin_succ']
  refine and_congr (forall_congr' fun q => ?_) ?_
  · rw [scanPosition_castSucc]
    grind
  · rw [last_eq_low, scanPosition_low, Option.map_eq_none_iff, lowScan_eq_none]
    grind

/-! ## The scan of both rings -/

theorem castSucc_sub_ne_low (q : Port) (h : Fin 5) : q.castSucc - h ≠ 4 - h :=
  fun e => castSucc_ne_low q (sub_left_injective e)

theorem le_low_iff_lt {h : Fin 5} : p.castSucc - h ≤ 4 - h ↔ p.castSucc - h < 4 - h :=
  (castSucc_sub_ne_low p h).le_iff_lt

theorem low_le_iff_lt {h : Fin 5} : 4 - h ≤ p.castSucc - h ↔ 4 - h < p.castSucc - h :=
  (castSucc_sub_ne_low p h).symm.le_iff_lt

variable {ptrs : RingPtrs}

theorem scanRings_eq_some {g : Port × Bool} :
    scanRings low ptrs has = some g ↔ ∃ x, scanPosition low ptrs.low has x = some g ∧
      ∀ y, y - ptrs.high < x - ptrs.high → scanPosition low ptrs.low has y = none := by
  rw [scanRings, highPositions_eq, findSome?_ring_eq_some]

theorem scanRings_eq_none : scanRings low ptrs has = none ↔ ∀ q, has q = false := by
  rw [scanRings, highPositions_eq, findSome?_ring_eq_none, Fin.forall_fin_succ', last_eq_low, scanPosition_low,
    Option.map_eq_none_iff, lowScan_eq_none]
  simp only [scanPosition_castSucc]
  grind

theorem scanRings_eq_high :
    scanRings low ptrs has = some (p, false) ↔ has p = true ∧ low.get p = false ∧
      (∀ q, has q = true → low.get q = false → (p.castSucc - ptrs.high).val ≤ (q.castSucc - ptrs.high).val) ∧
      ∀ q, has q = true → low.get q = true → (p.castSucc - ptrs.high).val < ((4 : Fin 5) - ptrs.high).val := by
  simp only [scanRings_eq_some, scanPosition_eq_high, nothing_before_iff, and_assoc, exists_eq_left, le_low_iff_lt]
  rfl

theorem scanRings_eq_low :
    scanRings low ptrs has = some (p, true) ↔ has p = true ∧ low.get p = true ∧
      (∀ q, has q = true → low.get q = true → (p - ptrs.low).val ≤ (q - ptrs.low).val) ∧
      ∀ q, has q = true → low.get q = false → ((4 : Fin 5) - ptrs.high).val < (q.castSucc - ptrs.high).val := by
  simp only [scanRings_eq_some, scanPosition_eq_low, nothing_before_iff, and_assoc, exists_eq_left, low_le_iff_lt,
    le_refl, implies_true, and_true]
  rfl

end Scan

/-- Settles O32: the high ring's scan stops at the nearest position where it finds something, which is a high-group port
with a candidate, or LOW with the nearest such port of the low ring. -/
theorem arbiterScansTheRings : Obligations.ArbiterScansTheRings := by
  intro low ptrs has
  exact ⟨scanRings_eq_none, fun _ => scanRings_eq_high, fun _ => scanRings_eq_low, fun _ => rfl, fun _ => rfl, rfl, rfl⟩

end Sys2Proof.RingScan
end

section
/-! The configuration objects without a row of their own (R105, R108, R143, R152), written with OBJECT_WRITE. -/

namespace Sys2Proof.ConfigObjects

open Sys2Proof.Machine Sys2Proof.Safety

/-! ## The write of a configuration item -/

theorem exec_objectWrite (index : BitVec 16) (v : Word) (s : State) :
    exec (.objectWrite index v) s = execObjectWrite index v s := rfl

theorem objectAt_configIndex (i : ConfigItem) : objectAt (configIndex i) = .config i := by cases i <;> rfl

section Items

variable {s : State}

/-- OBJECT_WRITE at a configuration item's index is the item's own write. -/
theorem exec_objectWrite_config (hs : s.inReset = false) (i : ConfigItem) (v : Word) :
    exec (.objectWrite (configIndex i) v) s = .next (recordResult (configIndex i) (writeConfig i v s)) := by
  rw [exec_objectWrite, execObjectWrite, whileRunning_of hs, objectWriteEvent, objectAt_configIndex]
  rfl

/-! ## The interlock (R152) -/

theorem interlockPasses_iff : interlockPasses s = true ↔ Unlocked s := by
  simp only [interlockPasses, Unlocked, Bool.or_eq_true, Bool.and_eq_true, beq_iff_eq, Bool.not_eq_true', anyOpen_iff]

theorem interlocked_of_unlocked (h : Unlocked s) (w : Written) : interlocked s w = w :=
  if_pos (interlockPasses_iff.mpr h)

theorem interlocked_of_locked (h : ¬ Unlocked s) (w : Written) : interlocked s w = notStored s .refusedState :=
  if_neg (mt interlockPasses_iff.mp h)

/-- The configuration items that the interlock guards are written under it. -/
theorem writeConfig_locked (h : ¬ Unlocked s) {i : ConfigItem} (hi : i = .bundleQuota ∨ i = .reserve ∨ i = .defaultClass)
    (v : Word) : writeConfig i v s = (s, .refusedState) := by
  obtain rfl | rfl | rfl := hi <;> exact interlocked_of_locked h _

/-! ## The form of a value (R173) -/

/-- A value in a range that the object's field can hold fits the field. -/
theorem fits_and_inRange_iff {v : Word} {width lo hi : Nat} (hw : hi < 2 ^ width) :
    (fitsIn v width && inRange lo hi v) = true ↔ lo ≤ v.toNat ∧ v.toNat ≤ hi := by
  simp only [fitsIn, inRange, Bool.and_eq_true, decide_eq_true_eq, and_iff_right_iff_imp]
  exact fun h => h.2.trans_lt hw

theorem fits_iff {v : Word} {width : Nat} : fitsIn v width = true ↔ v.toNat < 2 ^ width := decide_eq_true_iff

theorem classOfCode_eq_some {code : Nat} {cls : WClass} : classOfCode code = some cls ↔ code = classCode cls := by
  cases cls <;> simp [classOfCode, classCode] <;> grind

/-- The word of a class's code. -/
theorem toNat_eq_classCode {v : Word} {cls : WClass} : v.toNat = classCode cls ↔ v = BitVec.ofNat 32 (classCode cls) := by
  have hlt : classCode cls < 2 ^ 32 := by cases cls <;> decide
  rw [← BitVec.toNat_inj, BitVec.toNat_ofNat, Nat.mod_eq_of_lt hlt]

theorem classOfWord_eq_some {v : Word} {cls : WClass} :
    classOfCode v.toNat = some cls ↔ v = BitVec.ofNat 32 (classCode cls) :=
  classOfCode_eq_some.trans toNat_eq_classCode

theorem classOfWord_eq_none {v : Word} :
    classOfCode v.toNat = none ↔ ∀ cls, v ≠ BitVec.ofNat 32 (classCode cls) := by
  simp only [Option.eq_none_iff_forall_ne_some, ne_eq, classOfWord_eq_some]

/-! ## Each object, where its write is allowed -/

theorem exec_write_readRunLimit (hs : s.inReset = false) (v : Word) :
    exec (.objectWrite 0x0107 v) s =
      .next (storedIf (1 ≤ v.toNat ∧ v.toNat ≤ 16) s
        { s with config := { s.config with readRunLimit := v.toNat } } 0x0107) := by
  have hcheck : (fitsIn v 5 && inRange 1 16 v) = true ↔ 1 ≤ v.toNat ∧ v.toNat ≤ 16 := fits_and_inRange_iff (by decide)
  refine (exec_objectWrite_config hs .readRunLimit v).trans ?_
  rw [writeConfig, writeReadRunLimit, recordResult_storeIf hcheck]
  rfl

theorem exec_write_portGroup (hs : s.inReset = false) (v : Word) :
    exec (.objectWrite 0x0108 v) s =
      .next (storedIf (v.toNat < 16) s
        { s with config := { s.config with portLow := Table.ofFn fun n => v.getLsbD n.val } } 0x0108) := by
  have hcheck : fitsIn v 4 = true ↔ v.toNat < 16 := fits_iff
  refine (exec_objectWrite_config hs .portGroup v).trans ?_
  rw [writeConfig, writePortGroup, recordResult_storeIf hcheck]
  rfl

/-- Outside the states of R152 a guarded item keeps its value, whatever is offered. -/
theorem exec_write_locked (hs : s.inReset = false) (h : ¬ Unlocked s) {i : ConfigItem}
    (hi : i = .bundleQuota ∨ i = .reserve ∨ i = .defaultClass) (v : Word) :
    exec (.objectWrite (configIndex i) v) s = .next (written s (configIndex i) .refusedState) := by
  rw [exec_objectWrite_config hs, writeConfig_locked h hi]
  rfl

theorem exec_write_bundleQuota (hs : s.inReset = false) (h : Unlocked s) (v : Word) :
    exec (.objectWrite 0x0100 v) s =
      .next (storedIf (1 ≤ v.toNat ∧ v.toNat ≤ 32) s
        { s with config := { s.config with bundleQuota := v.toNat } } 0x0100) := by
  have hcheck : (fitsIn v 6 && inRange 1 32 v) = true ↔ 1 ≤ v.toNat ∧ v.toNat ≤ 32 := fits_and_inRange_iff (by decide)
  refine (exec_objectWrite_config hs .bundleQuota v).trans ?_
  rw [writeConfig, writeBundleQuota, interlocked_of_unlocked h, recordResult_storeIf hcheck]
  rfl

theorem exec_write_reserve (hs : s.inReset = false) (h : Unlocked s) (v : Word) :
    exec (.objectWrite 0x0101 v) s =
      .next (storedIf (4 ≤ v.toNat ∧ v.toNat ≤ 32) s
        { s with config := { s.config with reserve := v.toNat } } 0x0101) := by
  have hcheck : (fitsIn v 6 && inRange 4 32 v) = true ↔ 4 ≤ v.toNat ∧ v.toNat ≤ 32 := fits_and_inRange_iff (by decide)
  refine (exec_objectWrite_config hs .reserve v).trans ?_
  rw [writeConfig, writeReserve, interlocked_of_unlocked h, recordResult_storeIf hcheck]
  rfl

/-- A class's code is stored in DEFAULT_CLASS (R143). -/
theorem exec_write_defaultClass (hs : s.inReset = false) (h : Unlocked s) {v : Word} {cls : WClass}
    (hv : v = BitVec.ofNat 32 (classCode cls)) :
    exec (.objectWrite 0x010A v) s =
      .next (written { s with config := { s.config with defaultClass := cls } } 0x010A .accepted) := by
  refine (exec_objectWrite_config hs .defaultClass v).trans ?_
  rw [writeConfig, writeDefaultClass, interlocked_of_unlocked h, classOfWord_eq_some.mpr hv]
  rfl

theorem exec_write_defaultClass_refused (hs : s.inReset = false) (h : Unlocked s) {v : Word}
    (hv : ∀ cls, v ≠ BitVec.ofNat 32 (classCode cls)) :
    exec (.objectWrite 0x010A v) s = .next (written s 0x010A .refusedValue) := by
  refine (exec_objectWrite_config hs .defaultClass v).trans ?_
  rw [writeConfig, writeDefaultClass, interlocked_of_unlocked h, classOfWord_eq_none.mpr hv]
  rfl

end Items

/-- Settles O49: every object is its item's checked store; READ_RUN_LIMIT and PORT_GROUP stand outside the interlock, and
the other three answer REFUSED-STATE where it does not pass. -/
theorem otherConfigurationObjects : Obligations.OtherConfigurationObjects := by
  refine ⟨fun s v hs => ⟨exec_write_readRunLimit hs v, exec_write_portGroup hs v, fun hlocked index hindex => ?_,
    fun h => ⟨exec_write_bundleQuota hs h v, exec_write_reserve hs h v,
      fun _ hv => exec_write_defaultClass hs h hv, exec_write_defaultClass_refused hs h⟩⟩, rfl, rfl⟩
  have hlockedItem := fun i hi => exec_write_locked (i := i) hs hlocked hi v
  simp only [List.mem_cons, List.not_mem_nil, or_false] at hindex
  obtain rfl | rfl | rfl := hindex
  · exact hlockedItem .bundleQuota (.inl rfl)
  · exact hlockedItem .reserve (.inr (.inl rfl))
  · exact hlockedItem .defaultClass (.inr (.inr rfl))

end Sys2Proof.ConfigObjects
end

section
/-! The address windows (chapter 8, R140 to R144 and R152): the class of an address, and the writes of the window
objects. -/

namespace Sys2Proof.Windows

open Sys2Proof.Machine Sys2Proof.Safety Sys2Proof.ConfigObjects

/-! ## The lookup (R142, R144) -/

section Lookup

variable {s : State} {a b : Addr} {x : Window}

theorem holds_iff : x.holds a = true ↔
    x.enabled = true ∧ x.base.toNat ≤ a.toNat ∧ a.toNat < x.base.toNat + 2 ^ x.exponent := by
  simp only [Window.holds, Bool.and_eq_true, decide_eq_true_eq, and_assoc]

theorem classOf_of_first {w : Fin 8} (h : FirstAt s.windows (fun x => x.holds a = true) w) :
    classOf s a = (s.windows.get w).cls := by
  rw [classOf, find_of_firstAt s.windows (Window.holds a) w h]

theorem classOf_of_outside (h : ∀ w, ¬ (s.windows.get w).holds a = true) : classOf s a = s.config.defaultClass := by
  have hnone : s.windows.items.find? (Window.holds a) = none := by
    refine List.find?_eq_none.mpr fun x hx => ?_
    obtain ⟨w, rfl⟩ := Table.mem_items.mp hx
    exact h w
  rw [classOf, hnone]

theorem plainClass_of_pass (h : s.mode = .pass) : plainClass s a = .through := if_pos h

theorem plainClass_of_not_pass (h : s.mode ≠ .pass) : plainClass s a = classOf s a := if_neg h

/-! ## The bytes of a line -/

theorem lineOf_toNat : (lineOf a).toNat = 32 * (a.toNat / 32) := by
  have ha := a.isLt
  simp only [lineOf, BitVec.toNat_shiftLeft, BitVec.toNat_ushiftRight, Nat.shiftLeft_eq, Nat.shiftRight_eq_div_pow]
  omega

theorem line_number_eq (h : lineOf a = lineOf b) : a.toNat / 32 = b.toNat / 32 := by
  have hline := congrArg BitVec.toNat h
  rw [lineOf_toNat, lineOf_toNat] at hline
  omega

/-- An enabled legal window begins and ends between lines, so it holds a byte exactly where it holds the byte's line. -/
theorem holds_iff_of_legal (h : WindowLegal x) (he : x.enabled = true) :
    ∃ first count, ∀ a, x.holds a = true ↔ first ≤ a.toNat / 32 ∧ a.toNat / 32 < first + count := by
  obtain ⟨hmin, -, halign⟩ := h
  have hsize : 32 ∣ 2 ^ x.exponent := Nat.pow_dvd_pow 2 (show 5 ≤ x.exponent by omega)
  obtain ⟨first, hfirst⟩ := hsize.trans (Nat.dvd_of_mod_eq_zero (halign he))
  obtain ⟨count, hcount⟩ := hsize
  refine ⟨first, count, fun a => ?_⟩
  rw [holds_iff, and_iff_right he, hfirst, hcount]
  omega

theorem holds_eq_of_line (h : WindowLegal x) (hline : lineOf a = lineOf b) : x.holds a = x.holds b := by
  cases he : x.enabled with
  | false => simp only [Window.holds, he, Bool.false_and]
  | true =>
    obtain ⟨first, count, hheld⟩ := holds_iff_of_legal h he
    rw [Bool.eq_iff_iff, hheld, hheld, line_number_eq hline]

/-- The lookup sees an address only through the windows that hold it. -/
theorem classOf_congr (h : ∀ w, (s.windows.get w).holds a = (s.windows.get w).holds b) : classOf s a = classOf s b := by
  have hfind : s.windows.items.find? (Window.holds a) = s.windows.items.find? (Window.holds b) := by
    refine List.find?_congr fun x hx => ?_
    obtain ⟨w, rfl⟩ := Table.mem_items.mp hx
    exact h w
  rw [classOf, classOf, hfind]

end Lookup

/-- Settles O17: the search of the windows is the lookup of R142, and a legal window holds all of a line's bytes or
none. -/
theorem classLookup : Obligations.ClassLookup := by
  refine fun s a => ⟨fun w hw => ?_, fun hout => ?_, plainClass_of_pass, plainClass_of_not_pass, fun b hlegal hline => ?_⟩
  · exact classOf_of_first ((FirstAt.congr fun _ => holds_iff).mpr hw)
  · exact classOf_of_outside fun w => mt holds_iff.mp (hout w)
  · exact classOf_congr fun w => holds_eq_of_line (hlegal w) hline

/-! ## The class and enable word (R176) -/

section ClassEnable

variable {v : Word} {cls : WClass} {en : Bool}

theorem bit_getLsbD (i : Nat) : bit (v.getLsbD i) = v.toNat / 2 ^ i % 2 := by
  rw [BitVec.getLsbD, Nat.testBit_eq_decide_div_mod_eq, bit]
  grind

/-- A field that a mask covers is zero where the masked value is. -/
theorem field_eq_zero_of_mask {mask : Word} (a b : Nat) (hcovers : mask.extractLsb' a b = BitVec.allOnes b)
    (h : v &&& mask = 0) : v.toNat / 2 ^ a % 2 ^ b = 0 := by
  have hfield : v.extractLsb' a b = 0#b := by
    rw [← BitVec.and_allOnes (x := v.extractLsb' a b), ← hcovers, ← BitVec.extractLsb'_and, h]
    exact BitVec.extractLsb'_zero
  simpa [BitVec.extractLsb'_toNat, Nat.shiftRight_eq_div_pow] using congrArg BitVec.toNat hfield

/-- The bits outside bits 1:0 and 8 are zero: the class code and the enabled mark are all of the value. -/
theorem toNat_of_classEnable_mask (h : v &&& 0xFFFFFEFC = 0) :
    v.toNat = (v.extractLsb' 0 2).toNat + 256 * bit (v.getLsbD 8) := by
  have hlow : v.toNat / 2 ^ 2 % 2 ^ 6 = 0 := field_eq_zero_of_mask 2 6 (by decide) h
  have hhigh : v.toNat / 2 ^ 9 % 2 ^ 23 = 0 := field_eq_zero_of_mask 9 23 (by decide) h
  rw [bit_getLsbD, extract_toNat 0 2 v _ rfl]
  omega

theorem classEnable_word_iff : v = BitVec.ofNat 32 (classCode cls + if en then 256 else 0) ↔
    classOfCode (v.extractLsb' 0 2).toNat = some cls ∧ v &&& 0xFFFFFEFC = 0 ∧ v.getLsbD 8 = en := by
  constructor
  · rintro rfl
    cases cls <;> cases en <;> decide
  · rintro ⟨hcls, hmask, rfl⟩
    have hword := toNat_of_classEnable_mask hmask
    rw [classOfCode_eq_some.mp hcls] at hword
    exact BitVec.eq_of_toNat_eq (hword.trans (by cases cls <;> cases v.getLsbD 8 <;> rfl))

end ClassEnable

/-! ## The write of a window object (R141, R152) -/

section Objects

variable {s : State} (w : Fin 8)

/-- WINDOW_OBJECT is the object's own write, under its index. -/
theorem exec_windowObject (hs : s.inReset = false) (part : WindowPart) (v : Word) :
    exec (.windowObject w part v) s = .next (recordResult (windowIndex w part) (writeWindow w part v s)) :=
  whileRunning_of hs fun s => recordResult (windowIndex w part) (writeWindow w part v s)

theorem writeWindow_locked (h : ¬ Unlocked s) (part : WindowPart) (v : Word) :
    writeWindow w part v s = (s, .refusedState) := interlocked_of_locked h _

theorem exec_windowObject_locked (hs : s.inReset = false) (h : ¬ Unlocked s) (part : WindowPart) (v : Word) :
    exec (.windowObject w part v) s = .next (written s (windowIndex w part) .refusedState) := by
  rw [exec_windowObject w hs, writeWindow_locked w h]
  rfl

/-- A range is stored where its form passes and the window, if enabled, stays aligned (R141). -/
theorem recordResult_storeRange {form : Bool} {p : Prop} [Decidable p] (hform : form = true ↔ p) (base : Addr)
    (exponent : Nat) (index : BitVec 16) :
    recordResult index (storeRange s w base exponent form) =
      storedIf (p ∧ ((s.windows.get w).enabled = false ∨ base.toNat % 2 ^ exponent = 0)) s
        { s with windows := s.windows.set w { s.windows.get w with base := base, exponent := exponent } } index := by
  refine recordResult_storeIf ?_ index s _
  rw [Bool.and_eq_true, Bool.or_eq_true, Bool.not_eq_true', hform, aligned_iff]

theorem exec_write_baseLow (hs : s.inReset = false) (h : Unlocked s) (v : Word) {base : Addr}
    (hbase : base = (s.windows.get w).base.extractLsb' 32 8 ++ v) :
    exec (.windowObject w .baseLow v) s =
      .next (storedIf ((s.windows.get w).enabled = false ∨ base.toNat % 2 ^ (s.windows.get w).exponent = 0) s
        { s with windows := s.windows.set w { s.windows.get w with base := base } } (windowIndex w .baseLow)) := by
  rw [exec_windowObject w hs, writeWindow, interlocked_of_unlocked h]
  rw [writeBaseLow, ← hbase, recordResult_storeRange w (iff_of_true rfl trivial)]
  simp only [true_and]

theorem baseHighSize_form_iff {v : Word} {size : Nat} (hsize : size = v.toNat / 256 % 64) :
    (fitsIn v 14 && 12 ≤ (v.extractLsb' 8 6).toNat && (v.extractLsb' 8 6).toNat ≤ 40) = true ↔
      v.toNat < 16384 ∧ 12 ≤ size ∧ size ≤ 40 := by
  rw [extract_toNat 8 6 v size hsize.symm, Bool.and_eq_true, Bool.and_eq_true, fits_iff, decide_eq_true_eq,
    decide_eq_true_eq, and_assoc]
  rfl

theorem exec_write_baseHighSize (hs : s.inReset = false) (h : Unlocked s) (v : Word) {base : Addr} {size : Nat}
    (hbase : base = v.extractLsb' 0 8 ++ (s.windows.get w).base.extractLsb' 0 32)
    (hsize : size = v.toNat / 256 % 64) :
    exec (.windowObject w .baseHighSize v) s =
      .next (storedIf
        (v.toNat < 16384 ∧ 12 ≤ size ∧ size ≤ 40 ∧
          ((s.windows.get w).enabled = false ∨ base.toNat % 2 ^ size = 0)) s
        { s with windows := s.windows.set w { s.windows.get w with base := base, exponent := size } }
        (windowIndex w .baseHighSize)) := by
  rw [exec_windowObject w hs, writeWindow, interlocked_of_unlocked h]
  rw [writeBaseHighSize, ← hbase, recordResult_storeRange w (baseHighSize_form_iff hsize),
    extract_toNat 8 6 v size hsize.symm]
  simp only [and_assoc]

theorem exec_write_classEnable (hs : s.inReset = false) (h : Unlocked s) {v : Word} {cls : WClass} {en : Bool}
    (hv : v = BitVec.ofNat 32 (classCode cls + if en then 256 else 0)) :
    exec (.windowObject w .classEnable v) s =
      .next (storedIf (en = false ∨ (s.windows.get w).base.toNat % 2 ^ (s.windows.get w).exponent = 0) s
        { s with windows := s.windows.set w { s.windows.get w with enabled := en, cls := cls } }
        (windowIndex w .classEnable)) := by
  obtain ⟨hcls, hmask, hen⟩ := classEnable_word_iff.mp hv
  have hcheck : (v &&& 0xFFFFFEFC == 0 &&
      (!v.getLsbD 8 || aligned (s.windows.get w).base (s.windows.get w).exponent)) = true ↔
      en = false ∨ (s.windows.get w).base.toNat % 2 ^ (s.windows.get w).exponent = 0 := by
    rw [hmask, hen, BEq.rfl, Bool.true_and, Bool.or_eq_true, Bool.not_eq_true', aligned_iff]
  rw [exec_windowObject w hs, writeWindow, interlocked_of_unlocked h]
  simp only [writeClassEnable, hcls]
  rw [recordResult_storeIf hcheck, hen]
  rfl

theorem exec_write_classEnable_refused (hs : s.inReset = false) (h : Unlocked s) {v : Word}
    (hv : ∀ (cls : WClass) (en : Bool), v ≠ BitVec.ofNat 32 (classCode cls + if en then 256 else 0)) :
    exec (.windowObject w .classEnable v) s = .next (written s (windowIndex w .classEnable) .refusedValue) := by
  have hwrite : writeClassEnable w v s = (s, .refusedValue) := by
    cases hcls : classOfCode (v.extractLsb' 0 2).toNat with
    | none => simp only [writeClassEnable, hcls, notStored]
    | some cls =>
      have hmask : v &&& 0xFFFFFEFC ≠ 0 := fun hmask => hv cls _ (classEnable_word_iff.mpr ⟨hcls, hmask, rfl⟩)
      simp only [writeClassEnable, hcls, beq_eq_false_iff_ne.mpr hmask, Bool.false_and, storeIf]
      rfl
  rw [exec_windowObject w hs, writeWindow, interlocked_of_unlocked h]
  simp only [hwrite]
  rfl

end Objects

/-- Settles O48: the interlock is asked first, and each of the three objects is then a checked store. -/
theorem windowObjectsStayAligned : Obligations.WindowObjectsStayAligned := fun _ w v hs =>
  ⟨fun hlocked part => exec_windowObject_locked w hs hlocked part v, fun h =>
    ⟨fun _ hbase => exec_write_baseLow w hs h v hbase,
      fun _ _ hbase hsize => exec_write_baseHighSize w hs h v hbase hsize,
      fun _ _ hv => exec_write_classEnable w hs h hv, exec_write_classEnable_refused w hs h⟩⟩

end Sys2Proof.Windows
end

section
/-! The commands that move the mode (chapter 8, R147 to R151). -/

namespace Sys2Proof.Modes

open Sys2Proof.Machine Sys2Proof.Safety

section Commands

variable {s : State}

/-- A command of the link, taken or refused, leaves its outcome and the last result under the command object's index. -/
theorem exec_of_takeCommand {i : Instr} {c : LinkCommand} {t : State} {r : LastResult} (hs : s.inReset = false)
    (hi : exec i s = whileRunning s (commandEvent c)) (ht : takeCommand c s = (t, r)) :
    exec i s = .next (written t 0x0020 r) := by
  rw [hi, whileRunning_of hs, commandEvent, ht]
  rfl

/-! ## What each command takes -/

theorem takeEnable_of_pass (h : s.mode = .pass) : takeEnable s = ({ s with mode := .run }, .accepted) := if_pos h

theorem takeEnable_refused (h : s.mode ≠ .pass) : takeEnable s = (s, .refusedState) := if_neg h

/-- With entries in use QUIESCE waits for them in QUIESCING. -/
theorem takeQuiesce_of_occupied (h : s.mode = .run) (hocc : occupancy s ≠ 0) :
    takeQuiesce s = ({ s with mode := .quiescing }, .accepted) := by
  have hstay : reachQuiesced (s.setMode .quiescing) = s.setMode .quiescing := if_neg fun hreach => hocc hreach.2
  rw [takeQuiesce, if_pos h, hstay]
  rfl

/-- With an empty buffer QUIESCE reaches QUIESCED in the same event (R149). -/
theorem takeQuiesce_of_empty (h : s.mode = .run) (hocc : occupancy s = 0) :
    takeQuiesce s = ({ s with mode := .quiesced, modeEvent := true }, .accepted) := by
  have hreach : reachQuiesced (s.setMode .quiescing) = { s with mode := .quiesced, modeEvent := true } :=
    if_pos ⟨rfl, hocc⟩
  rw [takeQuiesce, if_pos h, hreach]

theorem takeQuiesce_refused (h : s.mode ≠ .run) : takeQuiesce s = (s, .refusedState) := if_neg h

theorem takeResume_of_stopped (h : s.mode = .quiescing ∨ s.mode = .quiesced) :
    takeResume s = ({ s with mode := .run }, .accepted) := if_pos h

theorem takeResume_refused (h : s.mode = .pass ∨ s.mode = .run) : takeResume s = (s, .refusedState) :=
  if_neg <| by obtain h | h := h <;> simp [h]

theorem takeDisable_of_closed (h : s.mode = .quiesced) (hclosed : ∀ c o, s.ctx c ≠ .opened o) :
    takeDisable s = ({ s with mode := .pass }, .accepted) := if_pos ⟨h, anyOpen_iff.mpr hclosed⟩

theorem takeDisable_refused (h : s.mode ≠ .quiesced ∨ ∃ c o, s.ctx c = .opened o) :
    takeDisable s = (s, .refusedState) := by
  refine if_neg fun ⟨hmode, hclosed⟩ => ?_
  obtain h | ⟨c, o, hc⟩ := h
  · exact h hmode
  · exact anyOpen_iff.mp hclosed c o hc

end Commands

/-- Settles O42: each command's event is what it takes, written with its result. -/
theorem modeCommandsMoveTheMode : Obligations.ModeCommandsMoveTheMode := fun _ hs =>
  ⟨fun h => exec_of_takeCommand hs rfl (takeEnable_of_pass h),
    fun h => exec_of_takeCommand hs rfl (takeEnable_refused h),
    fun h hocc => exec_of_takeCommand hs rfl (takeQuiesce_of_occupied h hocc),
    fun h hocc => exec_of_takeCommand hs rfl (takeQuiesce_of_empty h hocc),
    fun h => exec_of_takeCommand hs rfl (takeQuiesce_refused h),
    fun h => exec_of_takeCommand hs rfl (takeResume_of_stopped h),
    fun h => exec_of_takeCommand hs rfl (takeResume_refused h),
    fun h hclosed => exec_of_takeCommand hs rfl (takeDisable_of_closed h hclosed),
    fun h => exec_of_takeCommand hs rfl (takeDisable_refused h)⟩

end Sys2Proof.Modes
end

section
/-! Faults, flags and the alert line (chapter 9): FAULT-POP and the fault list as the link shows it (R160, R176),
CLEAR-FLAGS (R164), the alert mask (R165) and ALERT_N (R166). -/

namespace Sys2Proof.FaultsAndFlags

open Sys2Proof.Machine Sys2Proof.Safety Sys2Proof.ConfigObjects Sys2Proof.Modes

/-! ## The fault list (R160) -/

section FaultList

variable {s : State} {r : FaultRecord} {rest : List FaultRecord}

theorem takeFaultPop_cons (h : s.faultList = r :: rest) :
    takeFaultPop s = ({ s with faultList := rest }, .accepted) := by
  rw [takeFaultPop, h]

theorem takeFaultPop_nil (h : s.faultList = []) : takeFaultPop s = (s, .refusedState) := by
  rw [takeFaultPop, h]
  rfl

/-- The objects that show the fault list. -/
def ShowsFaults (o : MgmtObject) : Prop := o = .faultCount ∨ ∃ part, o = .faultHead part

theorem showsFaults_of_index {index : BitVec 16}
    (h : index ∈ [(0x0300 : BitVec 16), 0x0301, 0x0302, 0x0303, 0x0304]) : ShowsFaults (objectAt index) := by
  simp only [List.mem_cons, List.not_mem_nil, or_false] at h
  obtain rfl | rfl | rfl | rfl | rfl := h
  · exact .inl rfl
  · exact .inr ⟨.a, rfl⟩
  · exact .inr ⟨.b, rfl⟩
  · exact .inr ⟨.c, rfl⟩
  · exact .inr ⟨.d, rfl⟩

theorem offerValue_of_showsFaults {o : MgmtObject} (h : ShowsFaults o) (v : Word) :
    offerValue o v s = (s, .refusedValue) := by
  obtain rfl | ⟨part, rfl⟩ := h <;> rfl

/-- The fault objects are only read: a value offered to one of them is refused (R172). -/
theorem exec_write_fault_object (hs : s.inReset = false) {index : BitVec 16} (h : ShowsFaults (objectAt index))
    (v : Word) : exec (.objectWrite index v) s = .next (written s index .refusedValue) := by
  rw [exec_objectWrite, execObjectWrite, whileRunning_of hs, objectWriteEvent, offerValue_of_showsFaults h]
  rfl

theorem readObject_faultHead_cons (h : s.faultList = r :: rest) (part : FaultHead) :
    readObject s (.faultHead part) = faultHeadWord r part := by
  simp only [readObject, h, List.head?_cons]

theorem readObject_faultHead_nil (h : s.faultList = []) (part : FaultHead) : readObject s (.faultHead part) = 0 := by
  simp only [readObject, h, List.head?_nil]

theorem extract_eq_zero (a b : Nat) {v : Word} (h : v.toNat / 2 ^ a % 2 ^ b = 0) : v.extractLsb' a b = 0 :=
  extract_eq a b v 0 (h.trans BitVec.toNat_zero.symm)

/-- The kind, the port, the two marks and the line's upper byte stand at their bits of fault head A, with zero between
them (R176). -/
theorem faultHeadA_fields (r : FaultRecord) {v : Word} (hv : faultHeadWord r .a = v) :
    v.extractLsb' 0 2 = (match r.kind with | .writeError => 1 | .writeTimeout => 2) ∧ v.extractLsb' 2 2 = 0 ∧
    (v.extractLsb' 4 2).toNat = r.port.val ∧ v.extractLsb' 6 2 = 0 ∧ v.getLsbD 8 = (r.cls == .ordered) ∧
    v.getLsbD 9 = r.fromBundle ∧ v.extractLsb' 10 6 = 0 ∧ v.extractLsb' 16 8 = r.line.extractLsb' 32 8 ∧
    v.extractLsb' 24 8 = 0 := by
  have hsum := faultHeadA_toNat r
  rw [hv] at hsum
  have hkind : kindCode r.kind < 4 := by cases r.kind <;> decide
  have hport := r.port.isLt
  have hordered := bit_le (r.cls == .ordered)
  have hbundle := bit_le r.fromBundle
  have hline := (r.line.extractLsb' 32 8).isLt
  have hcode : v.toNat / 2 ^ 0 % 2 ^ 2 = kindCode r.kind := by omega
  refine ⟨extract_eq 0 2 v _ (hcode.trans ?_), extract_eq_zero 2 2 ?_, extract_toNat 4 2 v _ ?_,
    extract_eq_zero 6 2 ?_, getLsbD_eq_flag v 8 _ ?_, getLsbD_eq_flag v 9 _ ?_, extract_eq_zero 10 6 ?_,
    extract_eq 16 8 v _ ?_, extract_eq_zero 24 8 ?_⟩
  case refine_1 => cases r.kind <;> rfl
  all_goals omega

end FaultList

/-- Settles O43: the command removes the head, and the fault objects are views of the list. -/
theorem faultPopRemovesTheHead : Obligations.FaultPopRemovesTheHead := by
  refine fun s => ⟨fun hs => ⟨fun r rest h => exec_of_takeCommand hs rfl (takeFaultPop_cons h),
      fun h => exec_of_takeCommand hs rfl (takeFaultPop_nil h),
      fun index v h => exec_write_fault_object hs (showsFaults_of_index h) v⟩, rfl,
    fun r rest h => ?_, fun h index hindex => ?_⟩
  · have hread := readObject_faultHead_cons h
    exact ⟨fun v hv => faultHeadA_fields r ((hread .a).symm.trans hv), hread .b, hread .c, hread .d⟩
  · have hread := readObject_faultHead_nil h
    simp only [List.mem_cons, List.not_mem_nil, or_false] at hindex
    obtain rfl | rfl | rfl | rfl := hindex
    · exact hread .a
    · exact hread .b
    · exact hread .c
    · exact hread .d

/-! ## CLEAR-FLAGS (R164) -/

theorem takeCommand_clearFlags (s : State) : takeCommand .clearFlags s =
    ({ s with
        ports := Table.ofFn fun n => { s.port n with violation := false, portFault := false }
        overflow := false
        stray := false
        modeEvent := false }, .accepted) := rfl

/-- Settles O44: the command is accepted without a look at the mode or at the flags. -/
theorem clearFlagsClearsEveryFlag : Obligations.ClearFlagsClearsEveryFlag := fun s hs =>
  exec_of_takeCommand hs rfl (takeCommand_clearFlags s)

/-! ## The alert mask and ALERT_N (R165, R166) -/

section Alert

variable {s : State}

/-- The mask's four bits are stored, and a value with a bit outside them is refused (R165). -/
theorem exec_alertMask (hs : s.inReset = false) (v : Word) :
    exec (.alertMask v) s =
      .next (storedIf (v.toNat < 16) s
        { s with config := { s.config with alertMask :=
          { fault := v.getLsbD 0, violation := v.getLsbD 1, stray := v.getLsbD 2, mode := v.getLsbD 3 } } }
        0x010B) := by
  have hcheck : fitsIn v 4 = true ↔ v.toNat < 16 := fits_iff
  have hexec : exec (.alertMask v) s = .next (recordResult (configIndex .alertMask) (writeAlertMask v s)) :=
    whileRunning_of hs fun s => recordResult (configIndex .alertMask) (writeAlertMask v s)
  rw [hexec, writeAlertMask, recordResult_storeIf hcheck]
  rfl

theorem anyViolation_iff : anyViolation s = true ↔ ∃ n, (s.port n).violation = true := by
  rw [anyViolation, bne_iff_ne, ne_eq, Table.count_eq_zero]
  simp only [not_forall, Bool.not_eq_false, State.port]

theorem faultList_nonempty_iff : (!s.faultList.isEmpty) = true ↔ s.faultList ≠ [] := by
  rw [Bool.not_eq_true', List.isEmpty_eq_false_iff]

/-- ALERT_N is asserted exactly while a source holds that the mask enables (R166). -/
theorem alertAsserted_iff : alertAsserted s = true ↔
    (s.faultList ≠ [] ∧ s.config.alertMask.fault = true) ∨
      (s.overflow = true ∧ s.config.alertMask.fault = true) ∨
      ((∃ n, (s.port n).violation = true) ∧ s.config.alertMask.violation = true) ∨
      (s.stray = true ∧ s.config.alertMask.stray = true) ∨
      (s.modeEvent = true ∧ s.config.alertMask.mode = true) := by
  simp only [alertAsserted, Bool.or_eq_true, Bool.and_eq_true, faultList_nonempty_iff, anyViolation_iff, or_assoc]

theorem alertDriven_iff : alertDriven s = true ↔ s.inReset = false ∧ alertAsserted s = true := by
  rw [alertDriven, Bool.and_eq_true, Bool.not_eq_true']

end Alert

/-- Settles O45: the mask is a checked store, and the pin follows the enabled sources while RST_N is released. -/
theorem alertMaskAndAlertLine : Obligations.AlertMaskAndAlertLine :=
  ⟨fun _ v hs => exec_alertMask hs v, rfl, fun _ => alertDriven_iff.trans (and_congr_right' alertAsserted_iff)⟩

end Sys2Proof.FaultsAndFlags
end

section
/-! The object map (chapter 10, R172, R175, R176): what stands at each index, which object writes are refused there, and
the rows of the table that are object writes at their own index. -/

namespace Sys2Proof.ObjectMap

open Sys2Proof.Machine Sys2Proof.Safety Sys2Proof.ConfigObjects

/-! ## The indexes of the map (R176) -/

section Map

/-- An index at which the map shows the part's state and takes no value (R172). -/
def ReadOnlyIndex (n : Nat) : Prop :=
  n ≤ 1 ∨ n = 0x10 ∨ (0x300 ≤ n ∧ n ≤ 0x304) ∨ n = 0x310 ∨ (0x400 ≤ n ∧ n ≤ 0x403)

/-- An index that the map lists. -/
def Listed (n : Nat) : Prop :=
  n ≤ 1 ∨ n = 0x10 ∨ n = 0x20 ∨ (0x100 ≤ n ∧ n ≤ 0x10B) ∨ (0x200 ≤ n ∧ n < 0x220 ∧ n % 4 ≠ 3) ∨
    (0x300 ≤ n ∧ n ≤ 0x304) ∨ n = 0x310 ∨ (0x400 ≤ n ∧ n ≤ 0x403)

/-- The indexes of an object's group in the map. -/
def StandsAt : MgmtObject → Nat → Prop
  | .command, n => n = 0x20
  | .config _, n => 0x100 ≤ n ∧ n ≤ 0x10B
  | .window _ _, n => 0x200 ≤ n ∧ n < 0x220 ∧ n % 4 ≠ 3
  | .unassigned, n => ¬ Listed n
  | _, n => ReadOnlyIndex n

theorem configItemAt_eq_none_iff {k : Nat} : configItemAt k = none ↔ 12 ≤ k := List.getElem?_eq_none_iff

theorem windowObjectAt_eq_none_iff {k : Nat} : windowObjectAt k = none ↔ 32 ≤ k ∨ k % 4 = 3 := by
  simp only [windowObjectAt]
  split_ifs <;> simp <;> omega

theorem standsAt_ite {c : Prop} [Decidable c] {a b : MgmtObject} {n : Nat} (helse : ¬ c → StandsAt b n)
    (hthen : c → StandsAt a n) : StandsAt (if c then a else b) n :=
  iteInduction (motive := (StandsAt · n)) hthen helse

/-- Every index holds an object of the group that the map gives it. Of the thirteen tests of `objectAt` the last two look
into a table that has gaps (R172); what passes none of them is unassigned. -/
theorem standsAt_objectAt (index : BitVec 16) : StandsAt (objectAt index) index.toNat := by
  unfold objectAt
  generalize index.toNat = n
  iterate 13 refine standsAt_ite (fun _ => ?_) fun _ => ?_
  · simp only [StandsAt, Listed]
    omega
  · cases hw : windowObjectAt (n - 0x0200) with
    | none =>
      have hfree := windowObjectAt_eq_none_iff.mp hw
      simp only [StandsAt, Listed]
      omega
    | some p =>
      have htaken := mt windowObjectAt_eq_none_iff.mpr (hw ▸ Option.some_ne_none p)
      simp only [StandsAt]
      omega
  · cases hi : configItemAt (n - 0x0100) with
    | none =>
      have hfree := configItemAt_eq_none_iff.mp hi
      simp only [StandsAt, Listed]
      omega
    | some i =>
      have htaken := mt configItemAt_eq_none_iff.mpr (hi ▸ Option.some_ne_none i)
      simp only [StandsAt]
      omega
  all_goals
    simp only [StandsAt, ReadOnlyIndex]
    omega

theorem listed_of_standsAt {o : MgmtObject} {n : Nat} (h : StandsAt o n) (ho : o ≠ .unassigned) : Listed n := by
  cases o with
  | unassigned => exact absurd rfl ho
  | _ =>
    simp only [StandsAt, ReadOnlyIndex] at h
    simp only [Listed]
    omega

theorem objectAt_eq_unassigned_iff {index : BitVec 16} : objectAt index = .unassigned ↔ ¬ Listed index.toNat := by
  have hstands := standsAt_objectAt index
  exact ⟨fun h => by rwa [h] at hstands, not_imp_comm.mp (listed_of_standsAt hstands)⟩

end Map

/-! ## The refused writes (R172) -/

section Writes

variable {s : State} {index : BitVec 16} {v : Word}

/-- The objects that take values stand at none of the read-only indexes, and the others store nothing. -/
theorem offerValue_of_takesNone (h : objectAt index = .unassigned ∨ ReadOnlyIndex index.toNat) :
    offerValue (objectAt index) v s = (s, .refusedValue) := by
  have hstands := standsAt_objectAt index
  cases ho : objectAt index with
  | command | config | window =>
    simp only [ho, StandsAt] at hstands
    simp only [ho, reduceCtorEq, false_or, ReadOnlyIndex] at h
    omega
  | _ => rfl

theorem exec_write_refused (hs : s.inReset = false)
    (h : objectAt index = .unassigned ∨ ReadOnlyIndex index.toNat) :
    exec (.objectWrite index v) s = .next (written s index .refusedValue) := by
  rw [exec_objectWrite, execObjectWrite, whileRunning_of hs, objectWriteEvent, offerValue_of_takesNone h]
  rfl

theorem acksByte_of_write_frame (hs : s.inReset = false)
    (h : s.link.frame = .indexHigh ∨ (∃ b, s.link.frame = .indexLow b) ∨ ∃ held, s.link.frame = .writeData held) :
    acksByte s = true := by
  obtain h | ⟨b, h⟩ | ⟨held, h⟩ := h <;> simp only [acksByte, hs, h, Bool.not_false, Bool.and_self]

/-! ## The writes that reach their owners (R172, R175) -/

/-- A row whose event is the object write at an index is OBJECT_WRITE at that index. -/
theorem exec_objectWrite_eq {i : Instr} {event : State → State} (hi : exec i s = whileRunning s event)
    (h : objectWriteEvent index v = event) : exec (.objectWrite index v) s = exec i s := by
  rw [exec_objectWrite, execObjectWrite, h, hi]

theorem objectWriteEvent_config (item : ConfigItem) (v : Word) :
    objectWriteEvent (configIndex item) v = fun s => recordResult (configIndex item) (writeConfig item v s) := by
  funext s
  rw [objectWriteEvent, objectAt_configIndex]
  rfl

theorem objectWriteEvent_window (w : Fin 8) (part : WindowPart) (v : Word) :
    objectWriteEvent (windowIndex w part) v = fun s => recordResult (windowIndex w part) (writeWindow w part v s) := by
  funext s
  rw [objectWriteEvent, windowIndex, objectAt_window]
  rfl

/-- The value that asks for a command: its code, with the port of PORT-RESET above it (R175). -/
def commandValue : LinkCommand → Nat
  | .enable => 0x01
  | .quiesce => 0x02
  | .resume => 0x03
  | .disable => 0x04
  | .abortBundles => 0x10
  | .portReset n => 0x11 + 256 * n.val
  | .faultPop => 0x12
  | .clearFlags => 0x13
  | .releaseTags => 0x14

theorem commandOf_commandValue (c : LinkCommand) : commandOf (BitVec.ofNat 32 (commandValue c)) = some c := by
  cases c with
  | portReset n => revert n; decide
  | _ => rfl

theorem toNat_of_commandOf {c : LinkCommand} (h : commandOf v = some c) : v.toNat = commandValue c := by
  simp only [commandOf] at h
  split_ifs at h
  all_goals
    obtain rfl := Option.some.inj h
    simp only [commandValue, Fin.ofNat]
    omega

theorem isCommandWord_of_toNat {c : LinkCommand} (h : v.toNat = commandValue c) : isCommandWord v = true := by
  rw [isCommandWord, h]
  cases c with
  | portReset n => clear h; revert n; decide
  | _ => rfl

theorem commandOf_eq_none (h : isCommandWord v = false) : commandOf v = none :=
  Option.eq_none_iff_forall_ne_some.mpr fun _ hc =>
    Bool.eq_false_iff.mp h (isCommandWord_of_toNat (toNat_of_commandOf hc))

theorem objectWriteEvent_command (c : LinkCommand) :
    objectWriteEvent commandIndex (BitVec.ofNat 32 (commandValue c)) = commandEvent c := by
  funext s
  have hoffer : offerValue .command (BitVec.ofNat 32 (commandValue c)) s = takeCommand c s := by
    rw [offerValue, commandOf_commandValue]
  exact congrArg (recordResult commandIndex) hoffer

theorem exec_write_no_command (hs : s.inReset = false) (h : isCommandWord v = false) :
    exec (.objectWrite commandIndex v) s = .next (written s commandIndex .refusedValue) := by
  have hoffer : offerValue .command v s = (s, .refusedValue) := by
    rw [offerValue, commandOf_eq_none h]
    rfl
  have hevent : objectWriteEvent commandIndex v s = written s commandIndex .refusedValue :=
    congrArg (recordResult commandIndex) hoffer
  rw [exec_objectWrite, execObjectWrite, whileRunning_of hs, hevent]

end Writes

/-- Settles O50: each index holds an object of its group in the map, and the value goes to that object's owner. -/
theorem objectWritesByIndex : Obligations.ObjectWritesByIndex := fun _ v hs =>
  ⟨fun _ => ⟨objectAt_eq_unassigned_iff, exec_write_refused hs, fun h => by rw [h]; rfl⟩,
    acksByte_of_write_frame hs,
    exec_objectWrite_eq rfl (objectWriteEvent_config .highMark v),
    exec_objectWrite_eq rfl (objectWriteEvent_config .lowMark v),
    exec_objectWrite_eq rfl (objectWriteEvent_config .ageLimit v),
    exec_objectWrite_eq rfl (objectWriteEvent_config .idleLimit v),
    exec_objectWrite_eq rfl (objectWriteEvent_config .memTimeout v),
    exec_objectWrite_eq rfl (objectWriteEvent_config .tbdiv v),
    exec_objectWrite_eq rfl (objectWriteEvent_config .alertMask v),
    fun w part => exec_objectWrite_eq rfl (objectWriteEvent_window w part v),
    exec_objectWrite_eq rfl (objectWriteEvent_command .enable),
    exec_objectWrite_eq rfl (objectWriteEvent_command .quiesce),
    exec_objectWrite_eq rfl (objectWriteEvent_command .resume),
    exec_objectWrite_eq rfl (objectWriteEvent_command .disable),
    exec_objectWrite_eq rfl (objectWriteEvent_command .abortBundles),
    exec_objectWrite_eq rfl (objectWriteEvent_command .faultPop),
    exec_objectWrite_eq rfl (objectWriteEvent_command .clearFlags),
    exec_objectWrite_eq rfl (objectWriteEvent_command .releaseTags),
    fun n => exec_objectWrite_eq rfl (objectWriteEvent_command (.portReset n)),
    exec_write_no_command hs⟩

end Sys2Proof.ObjectMap
end

section
/-! What an event of the part can do to its blocks, said once for the invariants: the moves that an acceptance makes, the
end of an access, and the events a predicate has to be kept by. -/

namespace Sys2Proof.Events

open Sys2Proof.Machine Sys2Proof.Safety

/-! ## States that agree in their blocks -/

/-- `t` has the tables of `s`. -/
structure SameTables (s t : State) : Prop where
  entries : t.entries = s.entries
  commitOrder : t.commitOrder = s.commitOrder
  slots : t.slots = s.slots
  contexts : t.contexts = s.contexts
  fences : t.fences = s.fences
  accesses : t.accesses = s.accesses

/-- `t` has the tables of `s`, and what the invariants read beside them. -/
structure SameBlocks (s t : State) : Prop where
  tables : SameTables s t
  pressure : t.pressure = s.pressure
  windows : t.windows = s.windows
  mode : t.mode = s.mode
  config : t.config = s.config

/-- The ports of `t` have the head requests, outstanding tags and response queues of those of `s`. -/
structure SamePorts (s t : State) : Prop where
  head : ∀ q, (t.port q).head = (s.port q).head
  outstanding : ∀ q, (t.port q).outstanding = (s.port q).outstanding
  queue : ∀ q, (t.port q).queue = (s.port q).queue

section Agreement

variable {s t u : State} {p : Port}

theorem SameTables.refl (s : State) : SameTables s s := ⟨rfl, rfl, rfl, rfl, rfl, rfl⟩

theorem SameBlocks.refl (s : State) : SameBlocks s s := ⟨.refl s, rfl, rfl, rfl, rfl⟩

theorem SameTables.trans (h : SameTables s t) (g : SameTables t u) : SameTables s u where
  entries := g.entries.trans h.entries
  commitOrder := g.commitOrder.trans h.commitOrder
  slots := g.slots.trans h.slots
  contexts := g.contexts.trans h.contexts
  fences := g.fences.trans h.fences
  accesses := g.accesses.trans h.accesses

theorem SameBlocks.trans (h : SameBlocks s t) (g : SameBlocks t u) : SameBlocks s u where
  tables := h.tables.trans g.tables
  pressure := g.pressure.trans h.pressure
  windows := g.windows.trans h.windows
  mode := g.mode.trans h.mode
  config := g.config.trans h.config

/-- A change of the ports alone. -/
theorem sameBlocks_setPort (s : State) (p : Port) (x : PortState) : SameBlocks s (s.setPort p x) :=
  ⟨⟨rfl, rfl, rfl, rfl, rfl, rfl⟩, rfl, rfl, rfl, rfl⟩

theorem sameBlocks_place (p : Port) (tag : ReqTag) (a : Answer) (s : State) : SameBlocks s (place p tag a s) :=
  sameBlocks_setPort s p _

theorem sameBlocks_accepted (p : Port) (tag : ReqTag) (s : State) : SameBlocks s (accepted p tag s) :=
  ⟨⟨rfl, rfl, rfl, rfl, rfl, rfl⟩, rfl, rfl, rfl, rfl⟩

theorem SamePorts.of_ports (h : t.ports = s.ports) : SamePorts s t := by
  constructor <;> intro q <;> simp only [State.port, h]

theorem SamePorts.trans (h : SamePorts s t) (g : SamePorts t u) : SamePorts s u where
  head q := (g.head q).trans (h.head q)
  outstanding q := (g.outstanding q).trans (h.outstanding q)
  queue q := (g.queue q).trans (h.queue q)

/-- A port whose flags, level or order number change keeps what the tags are accounted by. -/
theorem samePorts_setPort {x : PortState} (hhead : x.head = (s.port p).head)
    (hout : x.outstanding = (s.port p).outstanding) (hqueue : x.queue = (s.port p).queue) :
    SamePorts s (s.setPort p x) := by
  constructor <;> intro q <;> rw [port_setPort] <;> split_ifs with h
  · rw [h, hhead]
  · rfl
  · rw [h, hout]
  · rfl
  · rw [h, hqueue]
  · rfl

theorem samePorts_bumpSeq (p : Port) (s : State) : SamePorts s (bumpSeq p s) := samePorts_setPort rfl rfl rfl

theorem samePorts_consumePortFault (k : FenceKind) (p : Port) (s : State) : SamePorts s (consumePortFault k p s) := by
  cases k with
  | port => exact samePorts_setPort rfl rfl rfl
  | all => exact .of_ports rfl

/-- A placed response changes its port's queue only. -/
theorem SamePorts.place (h : SamePorts s t) (p : Port) (tag : ReqTag) (a : Answer) :
    SamePorts (place p tag a s) (place p tag a t) := by
  constructor <;> intro q <;> simp only [Machine.place, port_setPort] <;> split_ifs with hq
  · exact h.head p
  · exact h.head q
  · exact h.outstanding p
  · exact h.outstanding q
  · simp only [h.queue p]
  · exact h.queue q

end Agreement

/-! ## The moves of an acceptance -/

/-- The slot that an accepted read takes: READY when it waits for no entry, WAITING for the entries of its set otherwise
(R48, R51). -/
inductive TakesSlot (s : State) (p : Port) (tag : ReqTag) : Slot → Prop
  | ready {r : ReadRec} (hport : r.port = p) (htag : r.tag = tag) (hwait : r.waitsFor.getD [] = []) :
      TakesSlot s p tag (.ready r)
  | waiting {r : ReadRec} {w : List EntryIx} (hport : r.port = p) (htag : r.tag = tag) (hwait : r.waitsFor = some w)
      (hne : w ≠ []) (hpending : ∀ i ∈ w, (s.entry i).isPending = true) : TakesSlot s p tag (.waiting r)

/-- What the owners of the blocks do with a head request of port p that they take. The Bool says that it is answered in
the same event; otherwise its answer is owed by what the move leaves (R127 to R129). -/
inductive Move (s : State) (p : Port) (tag : ReqTag) : Bool → State → Prop
  | answer : Move s p tag true s
  | slot {k : SlotIx} {x : Slot} (hk : s.slot k = .free) (hx : TakesSlot s p tag x) : Move s p tag false (s.setSlot k x)
  | combine {i : EntryIx} {c : Committed} (mask : ByteMask) (data : LineData) (hi : s.entry i = .pending c) :
      Move s p tag true (combineInto i c mask data s)
  | allocate {i : EntryIx} (cls : WClass) (line : Addr) (mask : ByteMask) (data : LineData) (hi : s.entry i = .free)
      (hmode : ¬ (s.mode = .quiescing ∨ s.mode = .quiesced)) :
      Move s p tag (cls != .through) (allocatePlain i (newEntry s p tag cls line mask data) s)
  | overlay {c : CtxIx} {o : OpenCtx} {i : EntryIx} {m : Member} (mask : ByteMask) (data : LineData)
      (hc : s.ctx c = .opened o) (hmem : i ∈ o.members) (hi : s.entry i = .member m) :
      Move s p tag true (overlayMember c o i m mask data s)
  | join {c : CtxIx} {o : OpenCtx} {i : EntryIx} {line : Addr} (mask : ByteMask) (data : LineData)
      (hc : s.ctx c = .opened o) (hi : s.entry i = .free)
      (hmode : ¬ (s.mode = .quiescing ∨ s.mode = .quiesced))
      (hline : ∀ j ∈ o.members, ∀ m, s.entry j = .member m → m.line ≠ line)
      (hquota : o.members.length < s.config.bundleQuota) (hspace : memberEntries s + s.config.reserve < 64) :
      Move s p tag true (allocateMember c o i line mask data s)
  | abort {c : CtxIx} {o : OpenCtx} (reason : AbortReason) (hc : s.ctx c = .opened o) :
      Move s p tag true (abortCtx c reason s)
  | bOpen {c : CtxIx} {l : Lane} (hmode : s.mode = .run) (hlane : contextOn s p l = none) (hc : s.ctx c = .free) :
      Move s p tag true
        (s.setCtx c (.opened { port := p, lane := l, rank := newRank s p, members := [], idle := 0 }))
  | bClose {c : CtxIx} {o : OpenCtx} (hc : s.ctx c = .opened o) : Move s p tag true (freeCtx c (commitMembers o.members s))
  | drop {c : CtxIx} (hc : (s.ctx c).isOpen = false) : Move s p tag true (freeCtx c s)
  | cancel {c : CtxIx} {o : OpenCtx} (hc : s.ctx c = .opened o) :
      Move s p tag true (afterRelease (freeCtx c (releaseEntries o.members s)))
  | fence {j : FenceIx} (k : FenceKind) (hj : s.fence j = .free) (hwait : waitSetOf s k p ≠ []) :
      Move s p tag false (s.setFence j (.waiting (newFence s k p tag)))

/-- The ports after a move: a response under the tag joins the queue of port p where the request is answered. -/
def Queued (s t : State) (p : Port) (tag : ReqTag) : Bool → Prop
  | true => ∃ a, SamePorts (place p tag a s) t
  | false => SamePorts s t

/-- `t` is reached by a move: its blocks are those after the move, and its ports took the answer. -/
def Moves (s : State) (p : Port) (tag : ReqTag) (t : State) : Prop :=
  ∃ b u, Move s p tag b u ∧ SameBlocks u t ∧ Queued s t p tag b

section Presented

variable {s t u : State} {p : Port} {tag : ReqTag}

/-- A move whose state is the answer placed. -/
theorem moves_place (h : Move s p tag true u) (hports : u.ports = s.ports) (a : Answer) :
    Moves s p tag (place p tag a u) :=
  ⟨true, u, h, sameBlocks_place p tag a u, a, (SamePorts.of_ports hports).place p tag a⟩

/-- A request that is only answered. -/
theorem moves_answer (s : State) (p : Port) (tag : ReqTag) (a : Answer) : Moves s p tag (place p tag a s) :=
  moves_place .answer rfl a

theorem Moves.bumpSeq (h : Moves s p tag t) : Moves s p tag (bumpSeq p t) := by
  obtain ⟨b, u, hmove, hblocks, hqueued⟩ := h
  refine ⟨b, u, hmove, hblocks.trans (sameBlocks_setPort t p _), ?_⟩
  cases b with
  | true =>
    obtain ⟨a, ha⟩ := hqueued
    exact ⟨a, ha.trans (samePorts_bumpSeq p t)⟩
  | false => exact SamePorts.trans hqueued (samePorts_bumpSeq p t)

/-- A move that leaves the answer owed. -/
theorem moves_owed (h : Move s p tag false u) (hports : u.ports = s.ports) : Moves s p tag u :=
  ⟨false, u, h, .refl u, .of_ports hports⟩

theorem slot_free_of_lowest {k : SlotIx} (h : s.slots.lowest Slot.isFree = some k) : s.slot k = .free :=
  isFree_slot.mp (Table.lowest_some h)

theorem entry_free_of_lowest {i : EntryIx} (h : s.entries.lowest Entry.isFree = some i) : s.entry i = .free :=
  isFree_entry.mp (Table.lowest_some h)

theorem forwardedReadPresented_moves {addr : Addr} {len : Nat}
    (h : forwardedReadPresented s p tag addr len = some t) : Moves s p tag t := by
  simp only [forwardedReadPresented] at h
  split_ifs at h with hfull
  · obtain rfl := Option.some.inj h
    exact (moves_answer s p tag _).bumpSeq
  · obtain ⟨k, hk, rfl⟩ := Option.map_eq_some_iff.mp h
    have hready : TakesSlot s p tag (.ready (readRec s p tag addr len (snapshotOf s p addr len) none)) :=
      .ready rfl rfl rfl
    exact (moves_owed (.slot (slot_free_of_lowest hk) hready) rfl).bumpSeq

theorem mem_waitsForSet {line : Addr} {i : EntryIx} :
    i ∈ waitsForSet s line ↔ ∃ c, s.entry i = .pending c ∧ (c.cls = .ordered ∨ c.line = line) := by
  simp only [waitsForSet, Table.mem_positions, State.entry]
  cases s.entries.get i <;> simp [Entry.awaited]

theorem orderedReadPresented_moves {addr : Addr} {len : Nat}
    (h : orderedReadPresented s p tag addr len = some t) : Moves s p tag t := by
  obtain ⟨k, hk, rfl⟩ := Option.map_eq_some_iff.mp h
  refine (moves_owed (.slot (slot_free_of_lowest hk) ?_) rfl).bumpSeq
  split_ifs with hw
  · exact .ready rfl rfl hw
  · refine .waiting rfl rfl rfl hw fun i hi => ?_
    obtain ⟨c, hc, -⟩ := mem_waitsForSet.mp hi
    exact isPending_iff.mpr ⟨c, hc⟩

theorem readPresented_moves {addr : Addr} {len : Nat} (h : readPresented s p tag addr len = some t) :
    Moves s p tag t := by
  simp only [readPresented] at h
  split_ifs at h
  · obtain rfl := Option.some.inj h
    exact moves_answer s p tag _
  · exact orderedReadPresented_moves h
  · exact forwardedReadPresented_moves h

theorem plainWritePresented_moves {addr : Addr} {mask : ByteMask} {data : LineData}
    (hmode : ¬ (s.mode = .quiescing ∨ s.mode = .quiesced))
    (h : plainWritePresented s p tag addr mask data = some t) : Moves s p tag t := by
  unfold plainWritePresented at h
  split at h
  next i c hcombine =>
    obtain ⟨hi, -⟩ := combineTarget_some hcombine
    obtain rfl := Option.some.inj h
    exact moves_place (.combine mask data hi) rfl .done
  next =>
    obtain ⟨i, hi, rfl⟩ := Option.map_eq_some_iff.mp h
    have hmove := Move.allocate (p := p) (tag := tag) (plainClass s addr) (lineOf addr) mask data
      (entry_free_of_lowest hi) hmode
    split_ifs with hthrough
    · rw [hthrough] at hmove ⊢
      exact moves_owed hmove rfl
    · rw [bne_iff_ne.mpr hthrough] at hmove
      exact moves_place hmove rfl .done

theorem newMemberPresented_moves {c : CtxIx} {o : OpenCtx} {line : Addr} {mask : ByteMask} {data : LineData}
    (hmode : ¬ (s.mode = .quiescing ∨ s.mode = .quiesced)) (hc : s.ctx c = .opened o)
    (hline : ∀ j ∈ o.members, ∀ m, s.entry j = .member m → m.line ≠ line)
    (h : newMemberPresented s p tag c o line mask data = some t) : Moves s p tag t := by
  unfold newMemberPresented at h
  split_ifs at h with hquota hspace hreserve
  · obtain rfl := Option.some.inj h
    exact moves_place (.abort .quota hc) (by simp) .void
  · obtain rfl := Option.some.inj h
    exact moves_place (.abort .space hc) (by simp) .void
  · obtain ⟨i, hi, rfl⟩ := Option.map_eq_some_iff.mp h
    have hroom : memberEntries s + s.config.reserve < 64 :=
      lt_of_not_ge (mt BundleTable.space_check_iff.mpr hspace)
    exact moves_place
      (.join mask data hc (entry_free_of_lowest hi) hmode hline (lt_of_not_ge hquota) hroom) rfl .done

theorem memberWritePresented_moves {l : Lane} {addr : Addr} {mask : ByteMask} {data : LineData}
    (hmode : ¬ (s.mode = .quiescing ∨ s.mode = .quiesced))
    (h : memberWritePresented s p tag l addr mask data = some t) : Moves s p tag t := by
  unfold memberWritePresented at h
  split at h
  next =>
    obtain rfl := Option.some.inj h
    exact moves_answer s p tag _
  next c _ =>
    split at h
    next =>
      obtain rfl := Option.some.inj h
      exact moves_answer s p tag _
    next =>
      obtain rfl := Option.some.inj h
      exact moves_answer s p tag _
    next o hc =>
      unfold openMemberPresented at h
      split at h
      next =>
        split at h
        next i m hmember =>
          obtain ⟨hmem, hi, -⟩ := memberOn_some hmember
          obtain rfl := Option.some.inj h
          exact moves_place (.overlay mask data hc hmem hi) rfl .done
        next hnone => exact newMemberPresented_moves hmode hc (memberOn_none hnone) h
      next =>
        obtain rfl := Option.some.inj h
        exact moves_place (.abort .cls hc) (by simp) (.refused .cls)

theorem fencePresented_moves (k : FenceKind) : Moves s p tag (fencePresented s k p tag) := by
  unfold fencePresented
  split
  · exact moves_answer s p tag _
  · split
    next => exact moves_answer s p tag _
    next j hj =>
      have hfree : s.fence j = .free := isFree_fence.mp (Table.lowest_some hj)
      have hports : SamePorts s { consumePortFault k p s with nextFence := s.nextFence + 1 } :=
        (samePorts_consumePortFault k p s).trans (.of_ports rfl)
      simp only [fenceAccepted]
      split_ifs with hwait
      · exact ⟨true, s, .answer, ⟨by constructor <;> simp, by simp, by simp, by simp, by simp⟩, _, hports.place p tag _⟩
      · exact ⟨false, _, .fence k hfree hwait, ⟨by constructor <;> simp, by simp, by simp, by simp, by simp⟩,
          hports.trans (.of_ports rfl)⟩

theorem bOpenPresented_moves (l : Lane) : Moves s p tag (bOpenPresented s p tag l) := by
  unfold bOpenPresented
  split_ifs with hpass hstopped hlane
  · exact moves_answer s p tag _
  · exact moves_answer s p tag _
  · exact moves_answer s p tag _
  · split
    next => exact moves_answer s p tag _
    next c hc =>
      have hrun : s.mode = .run := by
        cases hm : s.mode <;> simp [hm] at hpass hstopped ⊢
      exact moves_place (.bOpen hrun (by simpa using hlane) (isFree_ctx.mp (Table.lowest_some hc))) rfl .done

theorem bClosePresented_moves (l : Lane) : Moves s p tag (bClosePresented s p tag l) := by
  unfold bClosePresented
  split
  next => exact moves_answer s p tag _
  next c _ =>
    split
    next => exact moves_answer s p tag _
    next o hc => exact moves_place (.bClose hc) (by simp) .done
    next hc => exact moves_place (.drop (by rw [hc]; rfl)) (by simp) _

theorem bCancelPresented_moves (l : Lane) : Moves s p tag (bCancelPresented s p tag l) := by
  unfold bCancelPresented
  split
  next => exact moves_answer s p tag _
  next c _ =>
    split
    next => exact moves_answer s p tag _
    next o hc => exact moves_place (.cancel hc) (by simp) .done
    next hc => exact moves_place (.drop (by rw [hc]; rfl)) (by simp) _

/-- Every request that is taken is taken by a move. -/
theorem present_moves {r : Request} (h : present s p r = some t) : Moves s p r.tag t := by
  unfold present at h
  split at h
  next => exact readPresented_moves h
  next =>
    split_ifs at h
    · obtain rfl := Option.some.inj h
      exact moves_answer s p r.tag _
    · unfold writePresented at h
      split_ifs at h with hmode
      split at h
      next => exact plainWritePresented_moves hmode h
      next => exact memberWritePresented_moves hmode h
  next => obtain rfl := Option.some.inj h; exact fencePresented_moves .port
  next => obtain rfl := Option.some.inj h; exact fencePresented_moves .all
  next => obtain rfl := Option.some.inj h; exact bOpenPresented_moves _
  next => obtain rfl := Option.some.inj h; exact bClosePresented_moves _
  next => obtain rfl := Option.some.inj h; exact bCancelPresented_moves _

end Presented

end Sys2Proof.Events
end

section
/-! The other events as the invariants see them, and what a predicate has to be kept by to be kept by every step. -/

namespace Sys2Proof.Events

open Sys2Proof.Machine Sys2Proof.Safety

/-! ## Records after an event -/

section Records

variable {s : State} {i : EntryIx} {c : Committed} {t : AccessTag} {e : AccessEnd}

theorem slot_dropWaits (i : EntryIx) (s : State) (k : SlotIx) : (dropWaits i s).slot k = (s.slot k).dropWait i := by
  simp [dropWaits, State.slot]

theorem ctx_advance (s : State) (c : CtxIx) : (advanceTimers s).ctx c = (s.ctx c).tick := by
  simp [advanceTimers, State.ctx]

theorem access_advance (s : State) (a : AccessTag) : (advanceTimers s).access a = (s.access a).tick := by
  simp [advanceTimers, State.access]

theorem slot_portReset (n : Port) (s : State) (k : SlotIx) : (portResetNow n s).slot k = (s.slot k).portReset n := by
  simp [portResetNow, State.slot]

theorem ctx_portReset (n : Port) (s : State) (c : CtxIx) :
    (portResetNow n s).ctx c = if (s.ctx c).ownedBy n then .free else s.ctx c := by
  simp [portResetNow, State.ctx]

theorem fence_portReset (n : Port) (s : State) (j : FenceIx) :
    (portResetNow n s).fence j = (s.fence j).portReset n := by
  simp [portResetNow, State.fence]

theorem issueEntry_of_pending (hi : s.entry i = .pending c) (t : AccessTag) :
    issueEntry i t s = dropWaits i (s.setEntry i (.issued c t)) := by
  simp only [issueEntry, hi]

theorem issueSlot_of_ready {k : SlotIx} {r : ReadRec} (hk : s.slot k = .ready r) (t : AccessTag) :
    issueSlot k t s = unblock [k] (s.setSlot k (.issued r t false)) := by
  simp only [issueSlot, hk]

theorem endWrite_of_issued (hi : s.entry i = .issued c t) (e : AccessEnd) :
    endWrite i e s = afterRelease (answerEmptied (leaveFences i e.failed (dropEntry i (reportEnd c e s)))) := by
  simp only [endWrite, hi]

/-- A retired entry is FREE, and no other entry changes (R17, R39). -/
theorem entries_endWrite (hi : s.entry i = .issued c t) (e : AccessEnd) :
    (endWrite i e s).entries = s.entries.set i .free := by
  simp [endWrite_of_issued hi, dropEntry]

/-- It leaves the commit order (R17). -/
theorem commitOrder_endWrite (hi : s.entry i = .issued c t) (e : AccessEnd) :
    (endWrite i e s).commitOrder = without i s.commitOrder := by
  simp [endWrite_of_issued hi, dropEntry]

/-- It leaves every wait set, and a record whose set is empty is answered and FREE (R91, R92). -/
theorem fence_endWrite (hi : s.entry i = .issued c t) (e : AccessEnd) (j : FenceIx) :
    (endWrite i e s).fence j =
      if ((s.fence j).leave i e.failed).isEmptied then .free else (s.fence j).leave i e.failed := by
  have hleft : (leaveFences i e.failed (dropEntry i (reportEnd c e s))).fence j = (s.fence j).leave i e.failed := by
    simp [leaveFences, State.fence]
  have hfences : (endWrite i e s).fence j =
      (answerEmptied (leaveFences i e.failed (dropEntry i (reportEnd c e s)))).fence j := by
    simp [endWrite_of_issued hi, State.fence]
  rw [hfences, fence_answerEmptied, hleft]

end Records

/-! ## The owner of an access -/

/-- The owner is ISSUED, under some tag. -/
def OwnerIssued (s : State) : Owner → Prop
  | .write i => ∃ c t, s.entry i = .issued c t
  | .read k => ∃ r t b, s.slot k = .issued r t b

theorem endWrite_of_not_issued {s : State} {i : EntryIx} (h : ¬ OwnerIssued s (.write i)) (e : AccessEnd) :
    endWrite i e s = s := by
  unfold endWrite
  split
  next c t hi => exact absurd ⟨c, t, hi⟩ h
  next => rfl

theorem endRead_of_not_issued {s : State} {k : SlotIx} (h : ¬ OwnerIssued s (.read k)) (e : AccessEnd) :
    endRead k e s = s := by
  unfold endRead
  split
  next r t hk => exact absurd ⟨r, t, false, hk⟩ h
  next r t hk => exact absurd ⟨r, t, true, hk⟩ h
  next => rfl

theorem recordAfter_ne_outstanding (e : AccessEnd) (o : Owner) (n : Nat) : e.recordAfter ≠ .outstanding o n := by
  cases e <;> exact nofun

/-! ## What keeps a predicate -/

/-- Only access records change, none becomes OUTSTANDING, and those that were and are no more have no ISSUED owner. -/
structure RecordsFreed (s t : State) : Prop where
  frame : SameBlocks { s with accesses := t.accesses } t
  after : ∀ a o n, t.access a = .outstanding o n → s.access a = .outstanding o n
  before : ∀ a o n, s.access a = .outstanding o n → OwnerIssued s o → t.access a = .outstanding o n

/-- The predicate `I` is kept, where `E` holds before, by the events that the blocks take part in. -/
structure Conserved (E I : State → Prop) : Prop where
  blocks : ∀ {s t}, SameBlocks s t → I s → I t
  move : ∀ {s p tag b u}, E s → I s → Move s p tag b u → I u
  issueWrite : ∀ {s t i c}, E s → I s → s.access t = .free → eligible s i = true → s.entry i = .pending c →
    I ((issueEntry i t s).setAccess t (.outstanding (.write i) 0))
  issueRead : ∀ {s t k r}, E s → I s → s.access t = .free → s.slot k = .ready r →
    I ((issueSlot k t s).setAccess t (.outstanding (.read k) 0))
  retire : ∀ {s t i n c t'} (e : AccessEnd), E s → I s → s.access t = .outstanding (.write i) n →
    s.entry i = .issued c t' → I (endWrite i e (s.setAccess t e.recordAfter))
  answer : ∀ {s t k n r t' b} (e : AccessEnd), E s → I s → s.access t = .outstanding (.read k) n →
    s.slot k = .issued r t' b → I ((s.setAccess t e.recordAfter).setSlot k .free)
  records : ∀ {s t}, E s → I s → RecordsFreed s t → I t
  advance : ∀ {s}, E s → I s → I (advanceTimers s)
  portReset : ∀ {s} (n : Port), E s → I s → I (portResetNow n s)
  reset : I State.reset
  command : ∀ {s t} {c : LinkCommand}, E s → I s → c = .enable ∨ c = .quiesce ∨ c = .resume ∨ c = .disable →
    (takeCommand c s).1 = t → I t
  config : ∀ {s} (i : ConfigItem) (v : Word), E s → I s → I (writeConfig i v s).1
  window : ∀ {s} (w : Fin 8) (part : WindowPart) (v : Word), E s → I s → I (writeWindow w part v s).1

/-- A predicate that holds of a state and of every state with its tables needs to be kept by the events on tables. -/
structure TablesConserved (E I : State → Prop) : Prop where
  tables : ∀ {s t}, SameTables s t → I s → I t
  move : ∀ {s p tag b u}, E s → I s → Move s p tag b u → I u
  issueWrite : ∀ {s t i c}, E s → I s → s.access t = .free → eligible s i = true → s.entry i = .pending c →
    I ((issueEntry i t s).setAccess t (.outstanding (.write i) 0))
  issueRead : ∀ {s t k r}, E s → I s → s.access t = .free → s.slot k = .ready r →
    I ((issueSlot k t s).setAccess t (.outstanding (.read k) 0))
  retire : ∀ {s t i n c t'} (e : AccessEnd), E s → I s → s.access t = .outstanding (.write i) n →
    s.entry i = .issued c t' → I (endWrite i e (s.setAccess t e.recordAfter))
  answer : ∀ {s t k n r t' b} (e : AccessEnd), E s → I s → s.access t = .outstanding (.read k) n →
    s.slot k = .issued r t' b → I ((s.setAccess t e.recordAfter).setSlot k .free)
  records : ∀ {s t}, E s → I s → RecordsFreed s t → I t
  advance : ∀ {s}, E s → I s → I (advanceTimers s)
  portReset : ∀ {s} (n : Port), E s → I s → I (portResetNow n s)
  reset : I State.reset

section Commands

variable {s t : State} {b : Bool}

/-- A command that moves the mode leaves the tables. -/
theorem sameTables_of_mode_command {c : LinkCommand}
    (hc : c = .enable ∨ c = .quiesce ∨ c = .resume ∨ c = .disable) (h : (takeCommand c s).1 = t) : SameTables s t := by
  subst h
  have hquiesce : SameTables s (reachQuiesced (s.setMode .quiescing)) := by constructor <;> simp
  obtain rfl | rfl | rfl | rfl := hc
  · simp only [takeCommand, takeEnable]; split_ifs <;> exact ⟨rfl, rfl, rfl, rfl, rfl, rfl⟩
  · simp only [takeCommand, takeQuiesce]
    split_ifs
    · exact hquiesce
    · exact .refl s
  · simp only [takeCommand, takeResume]; split_ifs <;> exact ⟨rfl, rfl, rfl, rfl, rfl, rfl⟩
  · simp only [takeCommand, takeDisable]; split_ifs <;> exact ⟨rfl, rfl, rfl, rfl, rfl, rfl⟩

/-- It leaves items, windows and the pressure flag. -/
theorem frame_of_mode_command {c : LinkCommand} (hc : c = .enable ∨ c = .quiesce ∨ c = .resume ∨ c = .disable) :
    (takeCommand c s).1.config = s.config ∧ (takeCommand c s).1.windows = s.windows ∧
      (takeCommand c s).1.pressure = s.pressure := by
  obtain rfl | rfl | rfl | rfl := hc
  · simp only [takeCommand, takeEnable]; split_ifs <;> exact ⟨rfl, rfl, rfl⟩
  · simp only [takeCommand, takeQuiesce]
    split_ifs
    · simp
    · exact ⟨rfl, rfl, rfl⟩
  · simp only [takeCommand, takeResume]; split_ifs <;> exact ⟨rfl, rfl, rfl⟩
  · simp only [takeCommand, takeDisable]; split_ifs <;> exact ⟨rfl, rfl, rfl⟩

theorem ports_of_mode_command {c : LinkCommand} (hc : c = .enable ∨ c = .quiesce ∨ c = .resume ∨ c = .disable) :
    (takeCommand c s).1.ports = s.ports := by
  obtain rfl | rfl | rfl | rfl := hc
  · simp only [takeCommand, takeEnable]; split_ifs <;> rfl
  · simp only [takeCommand, takeQuiesce]
    split_ifs
    · simp
    · rfl
  · simp only [takeCommand, takeResume]; split_ifs <;> rfl
  · simp only [takeCommand, takeDisable]; split_ifs <;> rfl

/-- A checked store leaves the state, or is made. -/
theorem storeIf_cases {I : State → Prop} (hs : I s) (ht : b = true → I t) : I (storeIf b s t).1 := by
  unfold storeIf
  split_ifs with h
  · exact ht h
  · exact hs

theorem interlocked_cases {I : State → Prop} {w : Written} (hs : I s) (hw : interlockPasses s = true → I w.1) :
    I (interlocked s w).1 := by
  unfold interlocked
  split_ifs with h
  · exact hw h
  · exact hs

/-- `t` differs from `s` in items, pressure and divider only. -/
def ItemsChanged (s t : State) : Prop :=
  t = { s with config := t.config, pressure := t.pressure, divider := t.divider }

/-- A write of a configuration object changes items, pressure and divider only. -/
theorem itemsChanged_writeConfig (i : ConfigItem) (v : Word) (s : State) : ItemsChanged s (writeConfig i v s).1 := by
  have hstore : ∀ {b t}, ItemsChanged s t → ItemsChanged s (storeIf b s t).1 := fun h => storeIf_cases rfl fun _ => h
  have hlock : ∀ {w : Written}, ItemsChanged s w.1 → ItemsChanged s (interlocked s w).1 := fun h =>
    interlocked_cases rfl fun _ => h
  cases i with
  | bundleQuota | reserve => exact hlock (hstore rfl)
  | tbdiv =>
    simp only [writeConfig, writeTbdiv]
    split_ifs
    · exact hstore rfl
    · rfl
  | defaultClass =>
    refine hlock ?_
    split <;> rfl
  | _ => exact hstore rfl

theorem sameTables_writeConfig (i : ConfigItem) (v : Word) (s : State) : SameTables s (writeConfig i v s).1 := by
  rw [itemsChanged_writeConfig i v s]
  exact ⟨rfl, rfl, rfl, rfl, rfl, rfl⟩

theorem mode_writeConfig (i : ConfigItem) (v : Word) (s : State) : (writeConfig i v s).1.mode = s.mode := by
  rw [itemsChanged_writeConfig i v s]

theorem ports_writeConfig (i : ConfigItem) (v : Word) (s : State) : (writeConfig i v s).1.ports = s.ports := by
  rw [itemsChanged_writeConfig i v s]

/-- A write of a window object changes windows only. -/
theorem writeWindow_eq (w : Fin 8) (part : WindowPart) (v : Word) (s : State) :
    (writeWindow w part v s).1 = { s with windows := (writeWindow w part v s).1.windows } := by
  have hstore : ∀ {b t}, t = { s with windows := t.windows } →
      (storeIf b s t).1 = { s with windows := (storeIf b s t).1.windows } := fun h =>
    storeIf_cases (I := fun u => u = { s with windows := u.windows }) rfl fun _ => h
  refine interlocked_cases (I := fun u => u = { s with windows := u.windows }) rfl fun _ => ?_
  cases part with
  | baseLow | baseHighSize => exact hstore rfl
  | classEnable =>
    simp only [writeClassEnable]
    split
    · rfl
    · exact hstore rfl

theorem sameTables_writeWindow (w : Fin 8) (part : WindowPart) (v : Word) (s : State) :
    SameTables s (writeWindow w part v s).1 := by
  rw [writeWindow_eq]
  exact ⟨rfl, rfl, rfl, rfl, rfl, rfl⟩

theorem config_writeWindow (w : Fin 8) (part : WindowPart) (v : Word) (s : State) :
    (writeWindow w part v s).1.config = s.config := by
  rw [writeWindow_eq]

end Commands

theorem TablesConserved.conserved {E I : State → Prop} (h : TablesConserved E I) : Conserved E I where
  blocks hst := h.tables hst.tables
  move := h.move
  issueWrite := h.issueWrite
  issueRead := h.issueRead
  retire := h.retire
  answer := h.answer
  records := h.records
  advance := h.advance
  portReset := h.portReset
  reset := h.reset
  command _ hI hc ht := h.tables (sameTables_of_mode_command hc ht) hI
  config i v _ hI := h.tables (sameTables_writeConfig i v _) hI
  window w part v _ hI := h.tables (sameTables_writeWindow w part v _) hI

/-! ## From the events to every step -/

section Kept

variable {E I : State → Prop} {s t : State}

theorem Conserved.moves (h : Conserved E I) (hE : E s) (hI : I s) {p : Port} {tag : ReqTag} (hm : Moves s p tag t) :
    I t := by
  obtain ⟨b, u, hmove, hblocks, -⟩ := hm
  exact h.blocks hblocks (h.move hE hI hmove)

theorem Conserved.abort (h : Conserved E I) (hE : E s) (hI : I s) (c : CtxIx) (reason : AbortReason) :
    I (abortCtx c reason s) := by
  cases hx : (s.ctx c).isOpen with
  | false => rwa [BundleTable.abortCtx_of_not_open hx]
  | true =>
    obtain ⟨o, ho⟩ := isOpen_iff.mp hx
    exact h.move hE hI (.abort (p := 0) (tag := 0) reason ho)

theorem sameBlocks_arbiter (s : State) (a : Arbiter) : SameBlocks s { s with arbiter := a } :=
  ⟨⟨rfl, rfl, rfl, rfl, rfl, rfl⟩, rfl, rfl, rfl, rfl⟩

theorem Conserved.issue (h : Conserved E I) (hE : E s) (hI : I s) {t : AccessTag} {g : Grant}
    (ht : s.accesses.lowest AccessRec.isFree = some t) (hg : chosenGrant s = some g) : I (issueGrant g t s) := by
  have hfree : s.access t = .free := isFree_access.mp (Table.lowest_some ht)
  refine h.blocks (sameBlocks_arbiter _ g.arbiter) ?_
  obtain ⟨i, howner, hi⟩ | ⟨p, k, howner, hk⟩ := chosen_some hg
  · obtain ⟨c, hc, -⟩ := eligible_some hi
    rw [howner]
    exact h.issueWrite hE hI hfree hi hc
  · obtain ⟨r, hr, -⟩ := readCandidate_ready hk
    rw [howner]
    exact h.issueRead hE hI hfree hr

/-- A record whose owner is not ISSUED ends alone. -/
theorem recordsFreed_setAccess {a : AccessTag} {o : Owner} {n : Nat} (ha : s.access a = .outstanding o n)
    (ho : ¬ OwnerIssued s o) (e : AccessEnd) : RecordsFreed s (s.setAccess a e.recordAfter) where
  frame := .refl _
  after b p m hb := by
    rw [access_setAccess] at hb
    split_ifs at hb
    · exact absurd hb (recordAfter_ne_outstanding e p m)
    · exact hb
  before b p m hb hp := by
    rw [access_setAccess, if_neg, hb]
    rintro rfl
    obtain ⟨rfl, -⟩ := AccessRec.outstanding.inj (ha.symm.trans hb)
    exact ho hp

theorem endRead_of_issued {k : SlotIx} {r : ReadRec} {a : AccessTag} {b : Bool} (hk : s.slot k = .issued r a b)
    (e : AccessEnd) : SameBlocks (s.setSlot k .free) (endRead k e s) := by
  unfold endRead
  rw [hk]
  cases b with
  | false => exact sameBlocks_place _ _ _ _
  | true => exact .refl _

theorem Conserved.endAccess (h : Conserved E I) (hE : E s) (hI : I s) (a : AccessTag) (e : AccessEnd) :
    I (endAccess a e s) := by
  cases ha : s.access a with
  | free | quarantined => simpa only [Machine.endAccess, ha] using hI
  | outstanding o n =>
    by_cases ho : OwnerIssued s o
    · cases o with
      | write i =>
        obtain ⟨c, t', hi⟩ := ho
        rw [endAccess_write ha]
        exact h.retire e hE hI ha hi
      | read k =>
        obtain ⟨r, t', b, hk⟩ := ho
        rw [endAccess_read ha]
        exact h.blocks (endRead_of_issued (s := s.setAccess a e.recordAfter) hk e) (h.answer e hE hI ha hk)
    · have hend : Machine.endAccess a e s = s.setAccess a e.recordAfter := by
        cases o with
        | write i => rw [endAccess_write ha]; exact endWrite_of_not_issued (s := s.setAccess a e.recordAfter) ho e
        | read k => rw [endAccess_read ha]; exact endRead_of_not_issued (s := s.setAccess a e.recordAfter) ho e
      rw [hend]
      exact h.records hE hI (recordsFreed_setAccess ha ho e)

theorem Conserved.response (h : Conserved E I) (hE : E s) (hI : I s) (a : AccessTag) (st : MemStatus)
    (d : BitVec 256) : I (responseArrives a st d s) := by
  have hstray : ∀ u : State, SameBlocks u { u with stray := true } := fun _ =>
    ⟨⟨rfl, rfl, rfl, rfl, rfl, rfl⟩, rfl, rfl, rfl, rfl⟩
  unfold responseArrives
  split
  next => exact h.endAccess hE hI a _
  next ha =>
    refine h.blocks (hstray (s.setAccess a .free)) (h.records hE hI ⟨.refl _, fun b o n hb => ?_, fun b o n hb _ => ?_⟩)
    · rw [access_setAccess] at hb
      split_ifs at hb
      exact hb
    · rw [access_setAccess, if_neg, hb]
      rintro rfl
      exact nomatch ha.symm.trans hb
  next => exact h.blocks (hstray s) hI

theorem Conserved.expire (h : Conserved E I) (hE : E s) (hI : I s) (a : AccessTag) : I (expireAccess a s) := by
  unfold expireAccess
  split_ifs
  · exact h.endAccess hE hI a _
  · exact hI

/-- RELEASE-TAGS frees records that have no owner (R116). -/
theorem recordsFreed_releaseAllTags (s : State) : RecordsFreed s (releaseAllTags s) where
  frame := .refl _
  after a o n ha := by
    simp only [releaseAllTags, State.access, Table.get_mapIx] at ha
    split_ifs at ha
    exact ha
  before a o n ha _ := by
    have hq : (s.accesses.get a).isQuarantined = false := by rw [show s.accesses.get a = _ from ha]; rfl
    simp only [releaseAllTags, State.access, Table.get_mapIx, hq]
    exact ha

theorem sameBlocks_headArrives (n : Port) (tag : ReqTag) (b : Option ReqBody) (s : State) :
    SameBlocks s (headArrives n tag b s) :=
  ⟨by constructor <;> simp, by simp, by simp, by simp, by simp⟩

theorem sameBlocks_deliver (n : Port) (s : State) : SameBlocks s (deliver n s) :=
  ⟨by constructor <;> simp, by simp, by simp, by simp, by simp⟩

theorem sameBlocks_takeFaultPop (s : State) : SameBlocks s (takeFaultPop s).1 := by
  unfold takeFaultPop
  split
  · exact .refl s
  · exact ⟨⟨rfl, rfl, rfl, rfl, rfl, rfl⟩, rfl, rfl, rfl, rfl⟩

/-- After a device reset every block is as `State.reset` has it (R178). -/
theorem sameBlocks_deviceReset (s : State) : SameBlocks State.reset (deviceResetNow s) :=
  ⟨⟨rfl, rfl, rfl, rfl, rfl, rfl⟩, rfl, rfl, rfl, rfl⟩

/-- A predicate kept by the events is kept by every step, beside the one it needs. -/
theorem Conserved.kept (h : Conserved E I) (k : Kept E) : Kept fun s => E s ∧ I s := by
  have frame : ∀ {s t : State}, SameBlocks s t → E t → E s ∧ I s → E t ∧ I t :=
    fun hst hE hs => ⟨hE, h.blocks hst hs.2⟩
  have plain : ∀ {s t : State}, t.entries = s.entries → t.commitOrder = s.commitOrder → t.slots = s.slots →
      t.contexts = s.contexts → t.fences = s.fences → t.accesses = s.accesses → t.pressure = s.pressure →
      t.windows = s.windows → t.mode = s.mode → t.config = s.config → SameBlocks s t :=
    fun h1 h2 h3 h4 h5 h6 h7 h8 h9 h10 => ⟨⟨h1, h2, h3, h4, h5, h6⟩, h7, h8, h9, h10⟩
  exact {
    accept := fun s p r t hs hg hh hp => ⟨k.accept s p r t hs.1 hg hh hp,
      h.blocks (sameBlocks_accepted p r.tag t) (h.moves hs.1 hs.2 (present_moves hp))⟩
    head := fun s n tag b hs hn => frame (sameBlocks_headArrives n tag b s) (k.head s n tag b hs.1 hn) hs
    deliver := fun s n hs => frame (sameBlocks_deliver n s) (k.deliver s n hs.1) hs
    issue := fun s t g hs ht hg => ⟨k.issue s t g hs.1 ht hg, h.issue hs.1 hs.2 ht hg⟩
    response := fun s t st d hs => ⟨k.response s t st d hs.1, h.response hs.1 hs.2 t st d⟩
    expire := fun s t hs => ⟨k.expire s t hs.1, h.expire hs.1 hs.2 t⟩
    abort := fun s c reason hs => ⟨k.abort s c reason hs.1, h.abort hs.1 hs.2 c reason⟩
    advance := fun s hs => ⟨k.advance s hs.1, h.advance hs.1 hs.2⟩
    portReset := fun s n hs => ⟨k.portReset s n hs.1, h.portReset n hs.1 hs.2⟩
    held := fun s n b hs => frame (sameBlocks_setPort s n _) (k.held s n b hs.1) hs
    deviceReset := fun s hs => ⟨k.deviceReset s hs.1, h.blocks (sameBlocks_deviceReset s) h.reset⟩
    released := fun s strap hs =>
      frame (s := s) (plain rfl rfl rfl rfl rfl rfl rfl rfl rfl rfl) (k.released s strap hs.1) hs
    link := fun s l hs => frame (s := s) (plain rfl rfl rfl rfl rfl rfl rfl rfl rfl rfl) (k.link s l hs.1) hs
    freeCount := fun s n hs => frame (s := s) (plain rfl rfl rfl rfl rfl rfl rfl rfl rfl rfl) (k.freeCount s n hs.1) hs
    divider := fun s n hs => frame (s := s) (plain rfl rfl rfl rfl rfl rfl rfl rfl rfl rfl) (k.divider s n hs.1) hs
    queue := fun s q hs => frame (s := s) (plain rfl rfl rfl rfl rfl rfl rfl rfl rfl rfl) (k.queue s q hs.1) hs
    enable := fun s hs => ⟨k.enable s hs.1, h.command (c := .enable) hs.1 hs.2 (.inl rfl) rfl⟩
    quiesce := fun s hs => ⟨k.quiesce s hs.1, h.command (c := .quiesce) hs.1 hs.2 (.inr (.inl rfl)) rfl⟩
    resume := fun s hs => ⟨k.resume s hs.1, h.command (c := .resume) hs.1 hs.2 (.inr (.inr (.inl rfl))) rfl⟩
    disable := fun s hs => ⟨k.disable s hs.1, h.command (c := .disable) hs.1 hs.2 (.inr (.inr (.inr rfl))) rfl⟩
    pop := fun s hs => frame (sameBlocks_takeFaultPop s) (k.pop s hs.1) hs
    clear := fun s hs => frame (s := s) (plain rfl rfl rfl rfl rfl rfl rfl rfl rfl rfl) (k.clear s hs.1) hs
    tags := fun s hs => ⟨k.tags s hs.1, h.records hs.1 hs.2 (recordsFreed_releaseAllTags s)⟩
    config := fun s i v hs => ⟨k.config s i v hs.1, h.config i v hs.1 hs.2⟩
    window := fun s w part v hs => ⟨k.window s w part v hs.1, h.window w part v hs.1 hs.2⟩ }

/-- The predicate that needs none. -/
theorem kept_true : Kept fun _ => True := by
  constructor <;> intros <;> trivial

/-- A predicate kept by the events is kept by every step. -/
theorem Conserved.kept_alone (h : Conserved (fun _ => True) I) : Kept I := by
  have hk := h.kept kept_true
  simpa only [true_and] using hk

end Kept

end Sys2Proof.Events
end

section
/-! The commit order and the member lists (R2, R3, R73): what the invariant reads of an entry and of a context, how each
kind of event changes that, and that every step keeps the invariant. -/

namespace Sys2Proof.ExactLists

open Sys2Proof.Machine Sys2Proof.Safety Sys2Proof.Events

/-! ## What the lists read -/

/-- What the lists read of an entry: none of a FREE one, that it is committed, or a member's port and line. -/
def kind : Entry → Option (Option (Port × Addr))
  | .free => none
  | .member m => some (some (m.port, m.line))
  | .pending _ => some none
  | .issued _ _ => some none

/-- What they read of a context: the port and the member list of an OPEN one. -/
def held : Ctx → Option (Port × List EntryIx)
  | .opened o => some (o.port, o.members)
  | _ => none

@[simp] theorem kind_free : kind .free = none := rfl

theorem kind_eq_none {e : Entry} : kind e = none ↔ e = .free := by cases e <;> simp [kind]

theorem kind_eq_committed {e : Entry} : kind e = some none ↔ e.committed?.isSome = true := by
  cases e <;> simp [kind, Entry.committed?]

theorem kind_eq_member {e : Entry} {p : Port} {line : Addr} :
    kind e = some (some (p, line)) ↔ ∃ m, e = .member m ∧ m.port = p ∧ m.line = line := by
  cases e <;> simp [kind]

theorem held_eq_some {x : Ctx} {p : Port} {l : List EntryIx} :
    held x = some (p, l) ↔ ∃ o, x = .opened o ∧ o.port = p ∧ o.members = l := by
  cases x <;> simp [held]

theorem held_eq_none {x : Ctx} : held x = none ↔ x.isOpen = false := by cases x <;> simp [held, Ctx.isOpen]

@[simp] theorem kind_mapCommitted (f : Committed → Committed) (e : Entry) : kind (e.mapCommitted f) = kind e := by
  cases e <;> rfl

@[simp] theorem kind_dropReply (n : Port) (e : Entry) : kind (e.dropReply n) = kind e := kind_mapCommitted _ e

@[simp] theorem kind_tick (e : Entry) : kind e.tick = kind e := by cases e <;> rfl

@[simp] theorem held_tick (x : Ctx) : held x.tick = held x := by cases x <;> rfl

@[simp] theorem held_asFirst (x : Ctx) : held x.asFirst = held x := by cases x <;> rfl

/-- `EntriesExact` over what it reads. -/
structure Exact (order : List EntryIx) (k : EntryIx → Option (Option (Port × Addr)))
    (h : CtxIx → Option (Port × List EntryIx)) : Prop where
  nodup : order.Nodup
  order : ∀ i, i ∈ order ↔ k i = some none
  list : ∀ {c p l}, h c = some (p, l) → l.Nodup
  member : ∀ {c p l i}, h c = some (p, l) → i ∈ l → ∃ line, k i = some (some (p, line))
  holder : ∀ {i x}, k i = some (some x) → ∃ c p l, h c = some (p, l) ∧ i ∈ l
  one : ∀ {c d p q l m i}, h c = some (p, l) → h d = some (q, m) → i ∈ l → i ∈ m → c = d
  lines : ∀ {c p l i j}, h c = some (p, l) → i ∈ l → j ∈ l → k i = k j → i = j

theorem entriesExact_iff {s : State} :
    EntriesExact s ↔ Exact s.commitOrder (fun i => kind (s.entry i)) fun c => held (s.ctx c) := by
  constructor
  · rintro ⟨⟨hnodup, horder⟩, hM⟩
    refine ⟨hnodup, fun i => (horder i).trans kind_eq_committed.symm, fun hc => ?_, fun hc hi => ?_, fun hi => ?_,
      fun hc hd hi hj => ?_, fun hc hi hj hk => ?_⟩
    · obtain ⟨o, ho, -, rfl⟩ := held_eq_some.mp hc
      exact hM.nodup _ o ho
    · obtain ⟨o, ho, rfl, rfl⟩ := held_eq_some.mp hc
      obtain ⟨m, hm, hport⟩ := hM.member _ o ho _ hi
      exact ⟨m.line, kind_eq_member.mpr ⟨m, hm, hport, rfl⟩⟩
    · obtain ⟨m, hm, -, -⟩ := kind_eq_member.mp hi
      obtain ⟨c, o, ho, hmem⟩ := hM.held _ m hm
      exact ⟨c, o.port, o.members, held_eq_some.mpr ⟨o, ho, rfl, rfl⟩, hmem⟩
    · obtain ⟨o, ho, -, rfl⟩ := held_eq_some.mp hc
      obtain ⟨q, hq, -, rfl⟩ := held_eq_some.mp hd
      exact hM.one _ _ o q _ ho hq hi hj
    · obtain ⟨o, ho, -, rfl⟩ := held_eq_some.mp hc
      obtain ⟨m, hm, hport⟩ := hM.member _ o ho _ hi
      obtain ⟨n, hn, hport'⟩ := hM.member _ o ho _ hj
      simp only [hm, hn, kind, hport, hport', Option.some.injEq, Prod.mk.injEq, true_and] at hk
      exact hM.lines _ o ho _ hi _ hj m n hm hn hk
  · intro h
    refine ⟨⟨h.nodup, fun i => (h.order i).trans kind_eq_committed⟩, ⟨fun c o hc => ?_, fun c o hc i hi => ?_,
      fun i m hi => ?_, fun c d o q i hc hd hi hj => ?_, fun c o hc i hi j hj m n hm hn hl => ?_⟩⟩
    · exact h.list (held_eq_some.mpr ⟨o, hc, rfl, rfl⟩)
    · obtain ⟨line, hk⟩ := h.member (held_eq_some.mpr ⟨o, hc, rfl, rfl⟩) hi
      obtain ⟨m, hm, hport, -⟩ := kind_eq_member.mp hk
      exact ⟨m, hm, hport⟩
    · obtain ⟨c, p, l, hc, hmem⟩ := h.holder (kind_eq_member.mpr ⟨m, hi, rfl, rfl⟩)
      obtain ⟨o, ho, -, rfl⟩ := held_eq_some.mp hc
      exact ⟨c, o, ho, hmem⟩
    · exact h.one (held_eq_some.mpr ⟨o, hc, rfl, rfl⟩) (held_eq_some.mpr ⟨q, hd, rfl, rfl⟩) hi hj
    · have hc' := held_eq_some.mpr ⟨o, hc, rfl, rfl⟩
      obtain ⟨a, ha⟩ := h.member hc' hi
      obtain ⟨b, hb⟩ := h.member hc' hj
      refine h.lines hc' hi hj (ha.trans (.trans ?_ hb.symm))
      simp only [hm, kind, Option.some.injEq, Prod.mk.injEq] at ha
      simp only [hn, kind, Option.some.injEq, Prod.mk.injEq] at hb
      rw [← ha.2, ← hb.2, hl]

/-! ## How an event changes it -/

section Updates

variable {order order' : List EntryIx} {k k' : EntryIx → Option (Option (Port × Addr))}
  {h h' : CtxIx → Option (Port × List EntryIx)} {i : EntryIx} {c : CtxIx} {p : Port} {l : List EntryIx} {line : Addr}

theorem Exact.congr (H : Exact order k h) (ho : order' = order) (hk : ∀ j, k' j = k j) (hh : ∀ d, h' d = h d) :
    Exact order' k' h' := by
  obtain rfl := ho
  obtain rfl : k' = k := funext hk
  obtain rfl : h' = h := funext hh
  exact H

/-- No list holds a FREE entry. -/
theorem Exact.not_mem_of_free (H : Exact order k h) (hi : k i = none) (hc : h c = some (p, l)) : i ∉ l := by
  intro hmem
  obtain ⟨line, hk⟩ := H.member hc hmem
  exact nomatch hi.symm.trans hk

/-- No list holds a committed entry. -/
theorem Exact.not_mem_of_committed (H : Exact order k h) (hi : k i = some none) (hc : h c = some (p, l)) : i ∉ l := by
  intro hmem
  obtain ⟨line, hk⟩ := H.member hc hmem
  exact nomatch hi.symm.trans hk

/-- An entry that no list holds changes between FREE and committed. -/
theorem Exact.outside (H : Exact order k h) (hi : ∀ x, k i ≠ some (some x)) (hi' : ∀ x, k' i ≠ some (some x))
    (hk : ∀ j, j ≠ i → k' j = k j) (hnodup : order'.Nodup) (horder : ∀ j, j ∈ order' ↔ k' j = some none) :
    Exact order' k' h := by
  have hne : ∀ {c p l j}, h c = some (p, l) → j ∈ l → j ≠ i := by
    rintro c p l j hc hj rfl
    obtain ⟨line, hline⟩ := H.member hc hj
    exact hi _ hline
  refine ⟨hnodup, horder, H.list, fun hc hj => ?_, fun {j x} hj => ?_, H.one, fun hc hj hj' he => ?_⟩
  · rw [hk _ (hne hc hj)]
    exact H.member hc hj
  · have hji : j ≠ i := by
      rintro rfl
      exact hi' _ hj
    exact H.holder ((hk j hji).symm.trans hj)
  · rw [hk _ (hne hc hj), hk _ (hne hc hj')] at he
    exact H.lines hc hj hj' he

/-- A FREE entry commits as the youngest (R7). -/
theorem Exact.commit (H : Exact order k h) (hi : k i = none) (hk : ∀ j, k' j = if j = i then some none else k j) :
    Exact (order ++ [i]) k' h := by
  have hnot : i ∉ order := fun hmem => nomatch hi.symm.trans ((H.order i).mp hmem)
  refine H.outside (i := i) (by simp [hi]) (by simp [hk]) (fun j hj => by rw [hk, if_neg hj])
    (List.nodup_append.mpr ⟨H.nodup, List.nodup_singleton i, ?_⟩) fun j => ?_
  · rintro a ha b hb rfl
    exact hnot (List.mem_singleton.mp hb ▸ ha)
  · rw [hk]
    split_ifs with hj
    · simp [hj]
    · simp [hj, H.order]

/-- A committed entry retires (R17). -/
theorem Exact.retire (H : Exact order k h) (hi : k i = some none) (hk : ∀ j, k' j = if j = i then none else k j) :
    Exact (without i order) k' h := by
  refine H.outside (i := i) (by simp [hi]) (by simp [hk]) (fun j hj => by rw [hk, if_neg hj]) (H.nodup.filter _)
    fun j => ?_
  rw [hk, without, List.mem_filter]
  split_ifs with hj
  · simp [hj]
  · simp [hj, H.order]

/-- A FREE entry joins a member list on a line that the list does not hold (R72). -/
theorem Exact.join (H : Exact order k h) (hc : h c = some (p, l)) (hi : k i = none)
    (hline : ∀ j ∈ l, k j ≠ some (some (p, line)))
    (hk : ∀ j, k' j = if j = i then some (some (p, line)) else k j)
    (hh : ∀ d, h' d = if d = c then some (p, l ++ [i]) else h d) : Exact order k' h' := by
  have hnew : k' i = some (some (p, line)) := by rw [hk, if_pos rfl]
  have hold : ∀ {j}, j ≠ i → k' j = k j := fun hj => by rw [hk, if_neg hj]
  have hfresh : ∀ {d q m}, h d = some (q, m) → i ∉ m := fun hd => H.not_mem_of_free hi hd
  have hne : ∀ {d q m j}, h d = some (q, m) → j ∈ m → j ≠ i := by
    rintro d q m j hd hj rfl
    exact hfresh hd hj
  -- a list after the event is one before it, or the list of `c` with the new member
  have hlists : ∀ {d q m}, h' d = some (q, m) →
      (d ≠ c ∧ h d = some (q, m)) ∨ (d = c ∧ q = p ∧ m = l ++ [i]) := by
    intro d q m hd
    rw [hh] at hd
    split_ifs at hd with hdc
    · obtain ⟨rfl, rfl⟩ := Prod.mk.inj (Option.some.inj hd)
      exact .inr ⟨hdc, rfl, rfl⟩
    · exact .inl ⟨hdc, hd⟩
  refine ⟨H.nodup, fun j => ?_, fun hd => ?_, fun {d q m j} hd hj => ?_, fun {j x} hj => ?_,
    fun {d e q r m n j} hd he hj hj' => ?_, fun {d q m j j'} hd hj hj' he => ?_⟩
  · rw [hk]
    split_ifs with hj
    · simp [H.order, hj, hi]
    · exact H.order j
  · obtain ⟨-, hd⟩ | ⟨rfl, rfl, rfl⟩ := hlists hd
    · exact H.list hd
    · refine List.nodup_append.mpr ⟨H.list hc, List.nodup_singleton i, ?_⟩
      rintro a ha b hb rfl
      exact hfresh hc (List.mem_singleton.mp hb ▸ ha)
  · obtain ⟨-, hd⟩ | ⟨rfl, rfl, rfl⟩ := hlists hd
    · rw [hold (hne hd hj)]
      exact H.member hd hj
    · obtain hj | rfl := (List.mem_append.trans (or_congr_right List.mem_singleton)).mp hj
      · rw [hold (hne hc hj)]
        exact H.member hc hj
      · exact ⟨line, hnew⟩
  · by_cases hji : j = i
    · exact ⟨c, p, l ++ [i], by rw [hh, if_pos rfl], by simp [hji]⟩
    · obtain ⟨d, q, m, hd, hmem⟩ := H.holder ((hold hji).symm.trans hj)
      by_cases hdc : d = c
      · obtain ⟨rfl, rfl⟩ := Prod.mk.inj (Option.some.inj ((hdc ▸ hd).symm.trans hc))
        exact ⟨c, _, _, by rw [hh, if_pos rfl], List.mem_append_left _ hmem⟩
      · exact ⟨d, q, m, by rw [hh, if_neg hdc, hd], hmem⟩
  · obtain ⟨-, hd⟩ | ⟨rfl, rfl, rfl⟩ := hlists hd <;> obtain ⟨-, he⟩ | ⟨rfl, rfl, rfl⟩ := hlists he
    · exact H.one hd he hj hj'
    · obtain hj' | rfl := (List.mem_append.trans (or_congr_right List.mem_singleton)).mp hj'
      · exact H.one hd hc hj hj'
      · exact absurd hj (hfresh hd)
    · obtain hj | rfl := (List.mem_append.trans (or_congr_right List.mem_singleton)).mp hj
      · exact H.one hc he hj hj'
      · exact absurd hj' (hfresh he)
    · rfl
  · obtain ⟨-, hd⟩ | ⟨rfl, rfl, rfl⟩ := hlists hd
    · rw [hold (hne hd hj), hold (hne hd hj')] at he
      exact H.lines hd hj hj' he
    · obtain hjl | rfl := (List.mem_append.trans (or_congr_right List.mem_singleton)).mp hj <;>
        obtain hjl' | rfl := (List.mem_append.trans (or_congr_right List.mem_singleton)).mp hj'
      · rw [hold (hne hc hjl), hold (hne hc hjl')] at he
        exact H.lines hc hjl hjl' he
      · rw [hold (hne hc hjl), hnew] at he
        exact absurd he (hline j hjl)
      · rw [hold (hne hc hjl'), hnew] at he
        exact absurd he.symm (hline j' hjl')
      · rfl

/-- A FREE context opens with an empty list (R65). -/
theorem Exact.opens (H : Exact order k h) (hc : h c = none) (hh : ∀ d, h' d = if d = c then some (p, []) else h d) :
    Exact order k h' := by
  have hlists : ∀ {d q m}, h' d = some (q, m) → h d = some (q, m) ∨ m = [] := by
    intro d q m hd
    rw [hh] at hd
    split_ifs at hd
    · exact .inr (Prod.mk.inj (Option.some.inj hd)).2.symm
    · exact .inl hd
  have hmem : ∀ {d q m j}, h' d = some (q, m) → j ∈ m → h d = some (q, m) := by
    intro d q m j hd hj
    obtain hd | rfl := hlists hd
    · exact hd
    · exact nomatch hj
  refine ⟨H.nodup, H.order, fun hd => ?_, fun hd hj => H.member (hmem hd hj) hj, fun {j x} hj => ?_,
    fun hd he hj hj' => H.one (hmem hd hj) (hmem he hj') hj hj', fun hd hj => H.lines (hmem hd hj) hj⟩
  · obtain hd | rfl := hlists hd
    · exact H.list hd
    · exact List.nodup_nil
  · obtain ⟨d, q, m, hd, hmem⟩ := H.holder hj
    have hdc : d ≠ c := by
      rintro rfl
      exact nomatch hc.symm.trans hd
    exact ⟨d, q, m, by rw [hh, if_neg hdc, hd], hmem⟩

/-- The lists of some contexts end, and their members become FREE or commit together (R74, R76, R77, R83): `x` is what
the members become. -/
theorem Exact.close (H : Exact order k h) (P : CtxIx → Prop) [DecidablePred P] {x : Option (Option (Port × Addr))}
    (hx : ∀ y, x ≠ some (some y)) (hh : ∀ d, h' d = if P d then none else h d)
    (hin : ∀ {j d q m}, P d → h d = some (q, m) → j ∈ m → k' j = x)
    (hout : ∀ {j}, (∀ d q m, P d → h d = some (q, m) → j ∉ m) → k' j = k j)
    (hnodup : order'.Nodup) (horder : ∀ j, j ∈ order' ↔ k' j = some none) : Exact order' k' h' := by
  have hlists : ∀ {d q m}, h' d = some (q, m) → ¬ P d ∧ h d = some (q, m) := by
    intro d q m hd
    rw [hh] at hd
    split_ifs at hd with hP
    exact ⟨hP, hd⟩
  have hkeep : ∀ {d q m j}, ¬ P d → h d = some (q, m) → j ∈ m → k' j = k j := by
    intro d q m j hP hd hj
    refine hout fun e r n he hen hjn => hP ?_
    rwa [← H.one hen hd hjn hj]
  refine ⟨hnodup, horder, fun hd => H.list (hlists hd).2, fun hd hj => ?_, fun {j y} hj => ?_,
    fun hd he => H.one (hlists hd).2 (hlists he).2, fun hd hj hj' he => ?_⟩
  · obtain ⟨hP, hd⟩ := hlists hd
    rw [hkeep hP hd hj]
    exact H.member hd hj
  · have hkept : ∀ d q m, P d → h d = some (q, m) → j ∉ m := fun d q m hP hd hjm =>
      hx y ((hin hP hd hjm).symm.trans hj)
    obtain ⟨d, q, m, hd, hjm⟩ := H.holder ((hout hkept).symm.trans hj)
    exact ⟨d, q, m, by rw [hh, if_neg fun hP => hkept d q m hP hd hjm, hd], hjm⟩
  · obtain ⟨hP, hd⟩ := hlists hd
    rw [hkeep hP hd hj, hkeep hP hd hj'] at he
    exact H.lines hd hj hj' he

/-- The members of the lists that end become FREE. -/
theorem Exact.release (H : Exact order k h) (P : CtxIx → Prop) [DecidablePred P]
    (hh : ∀ d, h' d = if P d then none else h d)
    (hin : ∀ {j d q m}, P d → h d = some (q, m) → j ∈ m → k' j = none)
    (hout : ∀ {j}, (∀ d q m, P d → h d = some (q, m) → j ∉ m) → k' j = k j) : Exact order k' h' := by
  refine H.close P (x := none) nofun hh hin hout H.nodup fun j => ?_
  rw [H.order]
  by_cases hj : ∃ d q m, P d ∧ h d = some (q, m) ∧ j ∈ m
  · obtain ⟨d, q, m, hP, hd, hjm⟩ := hj
    obtain ⟨line, hline⟩ := H.member hd hjm
    simp [hin hP hd hjm, hline]
  · rw [hout fun d q m hP hd hjm => hj ⟨d, q, m, hP, hd, hjm⟩]

/-- The members of one list commit together (R74). -/
theorem Exact.closeCommit (H : Exact order k h) (hc : h c = some (p, l))
    (hk : ∀ j, k' j = if j ∈ l then some none else k j) (hh : ∀ d, h' d = if d = c then none else h d) :
    Exact (order ++ l) k' h' := by
  have hdisjoint : ∀ j ∈ order, j ∉ l := fun j hj => H.not_mem_of_committed ((H.order j).mp hj) hc
  refine H.close (· = c) (x := some none) (by simp) hh (fun {j d q m} hd hm hj => ?_) (fun {j} hj => ?_)
    (List.nodup_append.mpr ⟨H.nodup, H.list hc, fun a ha b hb hab => hdisjoint a ha (hab ▸ hb)⟩) fun j => ?_
  · obtain ⟨rfl, rfl⟩ := Prod.mk.inj (Option.some.inj ((hd ▸ hm).symm.trans hc))
    rw [hk, if_pos hj]
  · rw [hk, if_neg (hj c p l rfl hc)]
  · rw [hk, List.mem_append]
    split_ifs with hj
    · simp [hj]
    · simp [hj, H.order]

end Updates

/-! ## Every step keeps the lists exact -/

section Steps

variable {s t : State} {p : Port} {tag : ReqTag}

/-- A state whose lists are told by those before the event. -/
theorem entriesExact_of {s t : State} (hE : EntriesExact s)
    (h : Exact s.commitOrder (fun i => kind (s.entry i)) (fun c => held (s.ctx c)) →
      Exact t.commitOrder (fun i => kind (t.entry i)) fun c => held (t.ctx c)) : EntriesExact t :=
  entriesExact_iff.mpr (h (entriesExact_iff.mp hE))

/-- An event that leaves what the lists read. -/
theorem entriesExact_congr (hE : EntriesExact s) (ho : t.commitOrder = s.commitOrder)
    (hk : ∀ i, kind (t.entry i) = kind (s.entry i)) (hh : ∀ c, held (t.ctx c) = held (s.ctx c)) : EntriesExact t :=
  entriesExact_of hE fun H => H.congr ho hk hh

theorem entriesExact_of_tables (hst : SameTables s t) (hE : EntriesExact s) : EntriesExact t :=
  entriesExact_congr hE hst.commitOrder (fun i => by rw [entry_of_entries hst.entries])
    fun c => by simp only [State.ctx, hst.contexts]

/-- One entry is replaced by another of its kind. -/
theorem kind_setEntry {i : EntryIx} {e : Entry} (he : kind e = kind (s.entry i)) (j : EntryIx) :
    kind ((s.setEntry i e).entry j) = kind (s.entry j) := by
  rw [entry_setEntry]
  split_ifs with hj
  · rw [he, hj]
  · rfl

/-- One context is replaced by another that holds the same list. -/
theorem held_setCtx {c : CtxIx} {x : Ctx} (hx : held x = held (s.ctx c)) (d : CtxIx) :
    held ((s.setCtx c x).ctx d) = held (s.ctx d) := by
  rw [ctx_setCtx]
  split_ifs with hd
  · rw [hx, hd]
  · rfl

/-- A freed context holds no list, and the others hold what they held (R64). -/
theorem held_freeCtx (c : CtxIx) (s : State) (d : CtxIx) :
    held ((freeCtx c s).ctx d) = if d = c then none else held (s.ctx d) := by
  rw [ctx_freeCtx]
  split_ifs with hd
  · rfl
  · split
    · split_ifs
      · exact held_asFirst _
      · rfl
    · rfl

/-- The lists of a state reached by freeing the members of one context. -/
theorem exact_of_release {c : CtxIx} {o : OpenCtx} (hE : EntriesExact s) (hc : s.ctx c = .opened o)
    (ho : t.commitOrder = s.commitOrder)
    (hentries : ∀ i, t.entry i = if i ∈ o.members then .free else s.entry i)
    (hh : ∀ d, held (t.ctx d) = if d = c then none else held (s.ctx d)) : EntriesExact t := by
  have hheld : held (s.ctx c) = some (o.port, o.members) := held_eq_some.mpr ⟨o, hc, rfl, rfl⟩
  refine entriesExact_of hE fun H => ho ▸ H.release (· = c) hh (fun {i d q m} hd hm hi => ?_) fun {i} hi => ?_
  · obtain ⟨rfl, rfl⟩ := Prod.mk.inj (Option.some.inj ((hd ▸ hm).symm.trans hheld))
    rw [hentries, if_pos hi]
    rfl
  · rw [hentries, if_neg (hi c _ _ rfl hheld)]

theorem entriesExact_abort (hE : EntriesExact s) {c : CtxIx} {o : OpenCtx} (hc : s.ctx c = .opened o)
    (reason : AbortReason) : EntriesExact (abortCtx c reason s) := by
  refine exact_of_release hE hc (by simp) (fun i => ?_) fun d => ?_
  · rw [BundleTable.entry_abortCtx, hc, BundleTable.membersOf]
  · rw [BundleTable.ctx_abortCtx]
    split_ifs with hd
    · rw [hd, hc]
      rfl
    · rfl

theorem entry_allocatePlain (i : EntryIx) (a : Committed) (s : State) (j : EntryIx) :
    (allocatePlain i a s).entry j = if j = i then .pending a else s.entry j := entry_setEntry s i j _

theorem entry_allocateMember (c : CtxIx) (o : OpenCtx) (i : EntryIx) (line : Addr) (mask : ByteMask) (data : LineData)
    (s : State) (j : EntryIx) :
    (allocateMember c o i line mask data s).entry j =
      if j = i then .member { line := line, data := data, mask := mask, port := o.port } else s.entry j :=
  entry_setEntry s i j _

theorem ctx_allocateMember (c : CtxIx) (o : OpenCtx) (i : EntryIx) (line : Addr) (mask : ByteMask) (data : LineData)
    (s : State) (d : CtxIx) :
    (allocateMember c o i line mask data s).ctx d =
      if d = c then .opened { o with members := o.members ++ [i], idle := 0 } else s.ctx d :=
  ctx_setCtx s c d _

/-- A line that no member of a list is on is read in no entry of the list. -/
theorem kind_ne_of_line {o : OpenCtx} {line : Addr} (hline : ∀ j ∈ o.members, ∀ m, s.entry j = .member m → m.line ≠ line)
    (j : EntryIx) (hj : j ∈ o.members) : kind (s.entry j) ≠ some (some (o.port, line)) := by
  intro hk
  obtain ⟨m, hm, -, hl⟩ := kind_eq_member.mp hk
  exact hline j hj m hm hl

/-- A move of an acceptance keeps the lists exact. -/
theorem entriesExact_move {b : Bool} (hE : EntriesExact s) (h : Move s p tag b t) : EntriesExact t := by
  cases h with
  | answer => exact hE
  | slot | fence => exact entriesExact_congr hE rfl (fun _ => rfl) fun _ => rfl
  | combine mask data hi => exact entriesExact_congr hE rfl (kind_setEntry (by rw [hi]; rfl)) fun _ => rfl
  | allocate cls line mask data hi hmode =>
    refine entriesExact_of hE fun H => H.commit (by rw [hi]; rfl) fun j => ?_
    rw [entry_allocatePlain, apply_ite kind]
    rfl
  | overlay mask data hc hmem hi =>
    exact entriesExact_congr hE rfl (kind_setEntry (by rw [hi]; rfl))
      (held_setCtx (by exact (congrArg held hc).symm))
  | @join c o i line mask data hc hi hmode hline hquota hspace =>
    refine entriesExact_of hE fun H =>
      H.join (held_eq_some.mpr ⟨o, hc, rfl, rfl⟩) (by rw [hi]; rfl) (kind_ne_of_line hline) (fun j => ?_) fun d => ?_
    · rw [entry_allocateMember, apply_ite kind]
      rfl
    · rw [ctx_allocateMember, apply_ite held]
      rfl
  | abort reason hc => exact entriesExact_abort hE hc reason
  | bOpen hmode hlane hc =>
    refine entriesExact_of hE fun H => H.opens (p := p) (by rw [hc]; rfl) fun d => ?_
    rw [ctx_setCtx, apply_ite held]
    rfl
  | @bClose c o hc =>
    refine entriesExact_of hE fun H => ?_
    have horder : (freeCtx c (commitMembers o.members s)).commitOrder = s.commitOrder ++ o.members := by
      simp [commitMembers]
    have hentries : (freeCtx c (commitMembers o.members s)).entries = (commitMembers o.members s).entries := by simp
    rw [horder]
    refine H.closeCommit (held_eq_some.mpr ⟨o, hc, rfl, rfl⟩) (fun j => ?_) (held_freeCtx c (commitMembers o.members s))
    rw [entry_of_entries hentries, entry_commitMembers]
    split_ifs with hj
    · obtain ⟨line, hk⟩ := H.member (held_eq_some.mpr ⟨o, hc, rfl, rfl⟩) hj
      obtain ⟨m, hm, -⟩ := kind_eq_member.mp hk
      rw [hm]
      rfl
    · rfl
  | @drop c hc =>
    refine entriesExact_congr hE (by simp)
      (fun i => congrArg kind (entry_of_entries (by simp) i)) fun d => ?_
    rw [held_freeCtx]
    split_ifs with hd
    · rw [hd, held_eq_none.mpr hc]
    · rfl
  | @cancel c o hc =>
    refine exact_of_release hE hc (by simp) (BundleTable.entry_cancelled s c o) fun d => ?_
    have hcontexts := BundleTable.contexts_cancelled s c o
    rw [show (afterRelease (freeCtx c (releaseEntries o.members s))).ctx d = (freeCtx c (releaseEntries o.members s)).ctx d
      from congrArg (Table.get · d) hcontexts, held_freeCtx]
    rfl

theorem mem_membersOfPort {n : Port} {i : EntryIx} :
    i ∈ membersOfPort s n ↔ ∃ c o, s.ctx c = .opened o ∧ o.port = n ∧ i ∈ o.members := by
  have hmem : ∀ x : Ctx, i ∈ x.membersOf n ↔ ∃ o, x = .opened o ∧ o.port = n ∧ i ∈ o.members := by
    intro x
    cases x <;> simp [Ctx.membersOf]
  simp only [membersOfPort, List.mem_flatMap, Table.mem_items, hmem]
  constructor
  · rintro ⟨_, ⟨c, rfl⟩, o, h⟩
    exact ⟨c, o, h⟩
  · rintro ⟨c, o, h⟩
    exact ⟨_, ⟨c, rfl⟩, o, h⟩

/-- A port reset keeps the lists exact: the port's lists end and their members become FREE (R83). -/
theorem entriesExact_portReset (hE : EntriesExact s) (n : Port) : EntriesExact (portResetNow n s) := by
  have hentry : ∀ i, kind ((portResetNow n s).entry i) =
      if i ∈ membersOfPort s n then none else kind (s.entry i) := by
    intro i
    rw [entry_portReset, kind_dropReply, kind_mapCommitted, apply_ite kind, kind_free]
  refine entriesExact_of hE fun H => ?_
  have horder : (portResetNow n s).commitOrder = s.commitOrder := by simp
  rw [horder]
  refine H.release (fun c => (s.ctx c).ownedBy n = true) (fun d => ?_) (fun {i d q m} hd hm hi => ?_) fun {i} hi => ?_
  · rw [ctx_portReset, apply_ite held]
    rfl
  · obtain ⟨o, ho, rfl, rfl⟩ := held_eq_some.mp hm
    rw [ho] at hd
    rw [hentry, if_pos (mem_membersOfPort.mpr ⟨d, o, ho, by simpa [Ctx.ownedBy, Ctx.laneOf?] using hd, hi⟩)]
  · rw [hentry, if_neg]
    intro hmem
    obtain ⟨c, o, ho, hport, hmem⟩ := mem_membersOfPort.mp hmem
    exact hi c o.port o.members (by simp [ho, Ctx.ownedBy, Ctx.laneOf?, hport])
      (held_eq_some.mpr ⟨o, ho, rfl, rfl⟩) hmem

theorem entriesExact_reset : EntriesExact State.reset := by
  have hentry : ∀ i, State.reset.entry i = .free := fun i => Table.get_replicate _ i
  have hctx : ∀ c, State.reset.ctx c = .free := fun c => Table.get_replicate _ c
  refine ⟨⟨List.nodup_nil, fun i => iff_of_false List.not_mem_nil ?_⟩, ?_⟩
  · rw [hentry]
    exact nofun
  · constructor <;> simp [hentry, hctx]

/-- The events keep the lists exact. -/
theorem conserved_entriesExact : Conserved (fun _ => True) EntriesExact := by
  refine TablesConserved.conserved {
    tables := entriesExact_of_tables
    move := fun _ => entriesExact_move
    issueWrite := fun {s t i c} _ hE _ _ hc => ?_
    issueRead := fun {s t k r} _ hE _ hr => ?_
    retire := fun {s t i n c t'} e _ hE _ hi => ?_
    answer := fun _ _ hE _ _ => entriesExact_congr hE rfl (fun _ => rfl) fun _ => rfl
    records := fun _ hE ht => entriesExact_congr hE ht.frame.tables.commitOrder
      (fun i => by rw [entry_of_entries ht.frame.tables.entries])
      fun c => by simp only [State.ctx, ht.frame.tables.contexts]
    advance := fun _ hE => entriesExact_congr hE (by simp) (fun i => by rw [entry_advance, kind_tick])
      fun c => by rw [ctx_advance, held_tick]
    portReset := fun n _ hE => entriesExact_portReset hE n
    reset := entriesExact_reset }
  · rw [issueEntry_of_pending hc]
    exact entriesExact_congr hE rfl (kind_setEntry (by rw [hc]; rfl)) fun _ => rfl
  · rw [issueSlot_of_ready hr]
    refine entriesExact_congr hE rfl (fun i => ?_) fun _ => rfl
    exact (congrArg kind (entry_unblock [k] (s.setSlot k (.issued r t false)) i)).trans (kind_mapCommitted _ _)
  · have hentries := entries_endWrite (s := s.setAccess t e.recordAfter) hi e
    refine entriesExact_of hE fun H => ?_
    rw [commitOrder_endWrite (s := s.setAccess t e.recordAfter) hi e]
    refine (H.retire (i := i) (by rw [hi]; rfl) fun j => ?_).congr rfl (fun _ => rfl) fun d => ?_
    · rw [State.entry, hentries, Table.get_set, apply_ite kind]
      rfl
    · simp [State.ctx]

theorem kept_entriesExact : Kept EntriesExact := conserved_entriesExact.kept_alone

end Steps

/-- Settles O52: each event changes what the lists read in one of the ways above. -/
theorem stepKeepsEntriesExact : Obligations.StepKeepsEntriesExact := fun _ _ hE hstep =>
  kept_entriesExact.step hE hstep

end Sys2Proof.ExactLists
end

section
/-! Issue order (R4, R25, R26): what a view of the commit order reads of an entry, and that every step keeps each view a
run of ISSUED entries before a run of PENDING ones. -/

namespace Sys2Proof.IssueRuns

open Sys2Proof.Machine Sys2Proof.Safety Sys2Proof.Events Sys2Proof.ExactLists

/-! ## The views -/

/-- The tests that cut the commit order into queues, chains and the ORDERED list. -/
inductive ViewTest : (Committed → Bool) → Prop
  | port (p : Port) : ViewTest fun c => c.port == p
  | ordered : ViewTest fun c => c.cls == .ordered
  | line (l : Addr) : ViewTest fun c => c.line == l

/-- What the views read of an entry: the line, port and class of a committed one, and whether it is ISSUED. -/
def shown (e : Entry) : Option (Addr × Port × WClass × Bool) :=
  e.committed?.map fun c => (c.line, c.port, c.cls, e.isIssued)

theorem issueOrder_iff {s : State} : IssueOrder s ↔ ∀ f, ViewTest f → IssuedFirst s (committedView s f) := by
  constructor
  · rintro ⟨hport, hordered, hline⟩ f (p | _ | l)
    · exact hport p
    · exact hordered
    · exact hline l
  · exact fun h => ⟨fun p => h _ (.port p), h _ .ordered, fun l => h _ (.line l)⟩

section Shown

variable {e e' : Entry} {f : Committed → Bool}

theorem isIssued_eq (e : Entry) : e.isIssued = (shown e).any fun x => x.2.2.2 := by cases e <;> rfl

theorem isIssued_of_shown (h : shown e = shown e') : e.isIssued = e'.isIssued := by
  rw [isIssued_eq, isIssued_eq, h]

theorem committedWith_of_shown (hf : ViewTest f) (h : shown e = shown e') : e.committedWith f = e'.committedWith f := by
  cases hf with
  | port p =>
    have hany : ∀ e : Entry, (e.committedWith fun c => c.port == p) = (shown e).any fun x => x.2.1 == p := by
      intro e; cases e <;> rfl
    rw [hany, hany, h]
  | ordered =>
    have hany : ∀ e : Entry, (e.committedWith fun c => c.cls == .ordered) = (shown e).any fun x => x.2.2.1 == .ordered := by
      intro e; cases e <;> rfl
    rw [hany, hany, h]
  | line l =>
    have hany : ∀ e : Entry, (e.committedWith fun c => c.line == l) = (shown e).any fun x => x.1 == l := by
      intro e; cases e <;> rfl
    rw [hany, hany, h]

end Shown

/-! ## How an event changes them -/

section Updates

variable {s t : State} {i : EntryIx} {l m : List EntryIx}

/-- The entries that stay keep their places, and no ISSUED entry joins behind them. -/
theorem issueOrder_of (hI : IssueOrder s) (hsub : l.Sublist s.commitOrder) (ho : t.commitOrder = l ++ m)
    (hold : ∀ i ∈ l, shown (t.entry i) = shown (s.entry i)) (hnew : ∀ i ∈ m, (t.entry i).isIssued = false) :
    IssueOrder t := by
  refine issueOrder_iff.mpr fun f hf => ?_
  have hview : l.filter (fun i => (t.entry i).committedWith f) = l.filter fun i => (s.entry i).committedWith f :=
    List.filter_congr fun i hi => committedWith_of_shown hf (hold i hi)
  have hs : (l.filter fun i => (s.entry i).committedWith f).Pairwise fun older younger =>
      (s.entry younger).isIssued = true → (s.entry older).isIssued = true :=
    (issueOrder_iff.mp hI f hf).sublist (hsub.filter _)
  rw [IssuedFirst, committedView, ho, List.filter_append, List.pairwise_append, hview]
  refine ⟨hs.imp_of_mem fun {a b} ha hb h => ?_, ?_, fun a _ b hb h => ?_⟩
  · rwa [isIssued_of_shown (hold a (List.mem_of_mem_filter ha)), isIssued_of_shown (hold b (List.mem_of_mem_filter hb))]
  · refine List.pairwise_of_forall_mem_list fun a _ b hb h => ?_
    rw [hnew b (List.mem_of_mem_filter hb)] at h
    cases h
  · rw [hnew b (List.mem_of_mem_filter hb)] at h
    cases h

/-- An event that leaves the commit order and what it shows. -/
theorem issueOrder_congr (hI : IssueOrder s) (ho : t.commitOrder = s.commitOrder)
    (hold : ∀ i ∈ s.commitOrder, shown (t.entry i) = shown (s.entry i)) : IssueOrder t :=
  issueOrder_of hI (List.Sublist.refl _) (ho.trans (List.append_nil _).symm) hold (by simp)

/-- An entry behind ISSUED ones only is issued. -/
theorem issuedFirst_issue (hn : l.Nodup) (hs : IssuedFirst s l)
    (holder : i ∈ l → ∀ j ∈ olderIn l i, (s.entry j).isIssued = true)
    (ht : ∀ j, j ≠ i → (t.entry j).isIssued = (s.entry j).isIssued) (hi : (t.entry i).isIssued = true) :
    IssuedFirst t l := by
  induction l with
  | nil => exact List.Pairwise.nil
  | cons a l ih =>
    obtain ⟨hal, hn⟩ := List.nodup_cons.mp hn
    obtain ⟨hfirst, hrest⟩ := List.pairwise_cons.mp hs
    by_cases ha : a = i
    · subst ha
      refine List.pairwise_cons.mpr ⟨fun _ _ _ => hi, ?_⟩
      exact ih hn hrest fun hmem => absurd hmem hal
    · have hcons : olderIn (a :: l) i = a :: olderIn l i := by simp [olderIn, ha]
      rw [hcons] at holder
      refine List.pairwise_cons.mpr ⟨fun k hk hissued => ?_, ih hn hrest fun hmem j hj =>
        holder (List.mem_cons_of_mem a hmem) j (List.mem_cons_of_mem a hj)⟩
      rw [ht a ha]
      by_cases hki : k = i
      · exact holder (List.mem_cons_of_mem a (hki ▸ hk)) a List.mem_cons_self
      · exact hfirst k hk (by rwa [ht k hki] at hissued)

/-- What is older than an eligible entry in a view that holds it is ISSUED (R34). -/
theorem older_issued_of_eligible (h : eligible s i = true) {f : Committed → Bool} (hf : ViewTest f)
    (hmem : i ∈ committedView s f) : ∀ j ∈ olderIn (committedView s f) i, (s.entry j).isIssued = true := by
  obtain ⟨c, hc, -, hport, hordered, hline⟩ := eligible_some h
  have hpass : f c = true := by
    have := (List.mem_filter.mp hmem).2
    simpa [hc, Entry.committedWith, Entry.committed?] using this
  cases hf with
  | port p =>
    obtain rfl : c.port = p := by simpa using hpass
    exact fun j hj => List.all_eq_true.mp hport j hj
  | ordered => exact fun j hj => List.all_eq_true.mp (hordered (by simpa using hpass)) j hj
  | line l =>
    obtain rfl : c.line = l := by simpa using hpass
    intro j hj
    have hpending : (s.entry j).isPending = false := by
      simpa using List.any_eq_false.mp hline j hj
    have hview : j ∈ lineChain s c.line := (List.takeWhile_sublist _).subset hj
    have hcommitted := (List.mem_filter.mp hview).2
    cases hx : s.entry j <;> simp_all [Entry.isPending, Entry.isIssued, Entry.committedWith, Entry.committed?]

theorem issueOrder_issue (hE : EntriesExact s) (hI : IssueOrder s) {c : Committed} {a : AccessTag}
    (h : eligible s i = true) (hc : s.entry i = .pending c) (ho : t.commitOrder = s.commitOrder)
    (ht : ∀ j, t.entry j = if j = i then .issued c a else s.entry j) : IssueOrder t := by
  refine issueOrder_iff.mpr fun f hf => ?_
  have hview : committedView t f = committedView s f := by
    rw [committedView, committedView, ho]
    refine List.filter_congr fun j _ => ?_
    rw [ht]
    split_ifs with hj
    · rw [hj, hc]
      rfl
    · rfl
  rw [hview]
  refine issuedFirst_issue (committedView_nodup hE f) (issueOrder_iff.mp hI f hf) (older_issued_of_eligible h hf)
    (fun j hj => by rw [ht, if_neg hj]) (by rw [ht, if_pos rfl]; rfl)

end Updates

/-! ## Every step keeps the runs -/

section Steps

variable {s t : State} {p : Port} {tag : ReqTag}

theorem shown_mapCommitted {f : Committed → Committed} (e : Entry)
    (hf : ∀ c, (f c).line = c.line ∧ (f c).port = c.port ∧ (f c).cls = c.cls) : shown (e.mapCommitted f) = shown e := by
  cases e <;> simp [shown, Entry.mapCommitted, Entry.committed?, Entry.isIssued, hf]

theorem shown_dropReply (n : Port) (e : Entry) : shown (e.dropReply n) = shown e :=
  shown_mapCommitted e fun c => by split_ifs <;> exact ⟨rfl, rfl, rfl⟩

theorem shown_tick (e : Entry) : shown e.tick = shown e := by cases e <;> rfl

theorem shown_setEntry {i : EntryIx} {e : Entry} (he : shown e = shown (s.entry i)) (j : EntryIx) :
    shown ((s.setEntry i e).entry j) = shown (s.entry j) := by
  rw [entry_setEntry]
  split_ifs with hj
  · rw [he, hj]
  · rfl

/-- The commit order holds committed entries only. -/
theorem ne_of_mem_commitOrder (hE : EntriesExact s) {i j : EntryIx} (hi : (s.entry i).committed? = none)
    (hj : j ∈ s.commitOrder) : j ≠ i := by
  rintro rfl
  simpa [hi] using (hE.1.2 j).mp hj

/-- A committed entry is in no member list. -/
theorem not_mem_members (hE : EntriesExact s) {c : CtxIx} {o : OpenCtx} (hc : s.ctx c = .opened o) {j : EntryIx}
    (hj : j ∈ s.commitOrder) : j ∉ o.members := by
  intro hmem
  obtain ⟨m, hm, -⟩ := hE.2.member c o hc j hmem
  exact ne_of_mem_commitOrder hE (by rw [hm]; rfl) hj rfl

theorem not_mem_membersOfPort (hE : EntriesExact s) (n : Port) {j : EntryIx} (hj : j ∈ s.commitOrder) :
    j ∉ membersOfPort s n := by
  intro hmem
  obtain ⟨c, o, hc, -, hmem⟩ := mem_membersOfPort.mp hmem
  exact not_mem_members hE hc hj hmem

theorem issueOrder_of_tables (hst : SameTables s t) (hI : IssueOrder s) : IssueOrder t :=
  issueOrder_congr hI hst.commitOrder fun i _ => by rw [entry_of_entries hst.entries]

/-- A move of an acceptance keeps the runs: what it commits joins behind them. -/
theorem issueOrder_move {b : Bool} (hE : EntriesExact s) (hI : IssueOrder s) (h : Move s p tag b t) : IssueOrder t := by
  have released : ∀ {t : State} {c : CtxIx} {o : OpenCtx}, s.ctx c = .opened o → t.commitOrder = s.commitOrder →
      (∀ i, t.entry i = if i ∈ o.members then .free else s.entry i) → IssueOrder t := fun hc ho ht =>
    issueOrder_congr hI ho fun i hi => by rw [ht, if_neg (not_mem_members hE hc hi)]
  cases h with
  | answer => exact hI
  | slot | fence | bOpen => exact issueOrder_congr hI rfl fun _ _ => rfl
  | combine mask data hi => exact issueOrder_congr hI rfl fun j _ => shown_setEntry (by rw [hi]; rfl) j
  | @allocate i cls line mask data hi hmode =>
    refine issueOrder_of (m := [i]) hI (List.Sublist.refl _) rfl (fun j hj => ?_) fun j hj => ?_
    · rw [entry_allocatePlain, if_neg (ne_of_mem_commitOrder hE (by rw [hi]; rfl) hj)]
    · rw [entry_allocatePlain, if_pos (List.mem_singleton.mp hj)]
      rfl
  | overlay mask data hc hmem hi => exact issueOrder_congr hI rfl fun j _ => shown_setEntry (by rw [hi]; rfl) j
  | join mask data hc hi hmode hline hquota hspace =>
    refine issueOrder_congr hI rfl fun j hj => ?_
    rw [entry_allocateMember, if_neg (ne_of_mem_commitOrder hE (by rw [hi]; rfl) hj)]
  | @abort c o reason hc =>
    refine released hc (by simp) fun i => ?_
    rw [BundleTable.entry_abortCtx, hc, BundleTable.membersOf]
  | @bClose c o hc =>
    have hentry : ∀ j, (freeCtx c (commitMembers o.members s)).entry j =
        if j ∈ o.members then commitMember s (s.entry j) else s.entry j := fun j =>
      (entry_of_entries (by simp) j).trans (entry_commitMembers o.members s j)
    refine issueOrder_of (m := o.members) hI (List.Sublist.refl _) (by simp [commitMembers]) (fun j hj => ?_) fun j hj => ?_
    · rw [hentry, if_neg (not_mem_members hE hc hj)]
    · obtain ⟨m, hm, -⟩ := hE.2.member c o hc j hj
      rw [hentry, if_pos hj, hm]
      rfl
  | drop hc => exact issueOrder_congr hI (by simp) fun j _ => congrArg shown (entry_of_entries (by simp) j)
  | @cancel c o hc => exact released hc (by simp) (BundleTable.entry_cancelled s c o)

/-- The events keep the runs, where the lists are exact. -/
theorem conserved_issueOrder : Conserved EntriesExact IssueOrder := by
  refine TablesConserved.conserved {
    tables := issueOrder_of_tables
    move := issueOrder_move
    issueWrite := fun {s t i c} hE hI _ hi hc => ?_
    issueRead := fun {s t k r} _ hI _ hr => ?_
    retire := fun {s t i n c t'} e _ hI _ hi => ?_
    answer := fun _ _ hI _ _ => issueOrder_congr hI rfl fun _ _ => rfl
    records := fun _ hI ht => issueOrder_congr hI ht.frame.tables.commitOrder
      fun i _ => by rw [entry_of_entries ht.frame.tables.entries]
    advance := fun _ hI => issueOrder_congr hI (by simp) fun i _ => by rw [entry_advance, shown_tick]
    portReset := fun {s} n hE hI => issueOrder_congr hI (by simp) fun i hi => ?_
    reset := issueOrder_iff.mpr fun _ _ => List.Pairwise.nil }
  · refine issueOrder_issue (a := t) hE hI hi hc (by simp) fun j => ?_
    rw [issueEntry_of_pending hc]
    exact entry_setEntry s i j _
  · rw [issueSlot_of_ready hr]
    refine issueOrder_congr hI rfl fun i _ => ?_
    refine (congrArg shown (entry_unblock [k] (s.setSlot k (.issued r t false)) i)).trans ?_
    exact shown_mapCommitted _ fun _ => ⟨rfl, rfl, rfl⟩
  · have hentries := entries_endWrite (s := s.setAccess t e.recordAfter) hi e
    have horder := commitOrder_endWrite (s := s.setAccess t e.recordAfter) hi e
    refine issueOrder_of (m := []) hI (List.filter_sublist (p := fun j => j != i)) (horder.trans (List.append_nil _).symm)
      (fun j hj => ?_) (by simp)
    have hji : j ≠ i := by simpa using (List.mem_filter.mp hj).2
    rw [State.entry, hentries, Table.get_set_ne _ _ hji]
    rfl
  · rw [entry_portReset, shown_dropReply, if_neg (not_mem_membersOfPort hE n hi)]
    exact shown_mapCommitted _ fun _ => ⟨rfl, rfl, rfl⟩

end Steps

/-- Settles O53: an entry joins a view behind the others and PENDING, and one that is issued has only ISSUED ones before
it. -/
theorem stepKeepsIssueOrder : Obligations.StepKeepsIssueOrder := fun _ _ hE hI hstep =>
  ((conserved_issueOrder.kept kept_entriesExact).step ⟨hE, hI⟩ hstep).2

end Sys2Proof.IssueRuns
end

section
/-! Accesses and their owners (R100): the tag an owner is ISSUED under and the owner a record names, and that every step
keeps them naming each other. -/

namespace Sys2Proof.Owners

open Sys2Proof.Machine Sys2Proof.Safety Sys2Proof.Events Sys2Proof.ExactLists Sys2Proof.IssueRuns

/-! ## What owners and records name -/

/-- The tag of an ISSUED entry. -/
def entryTag : Entry → Option AccessTag
  | .issued _ t => some t
  | _ => none

/-- The tag of an ISSUED slot. -/
def slotTag : Slot → Option AccessTag
  | .issued _ t _ => some t
  | _ => none

/-- The tag an owner is ISSUED under. -/
def tagOf (s : State) : Owner → Option AccessTag
  | .write i => entryTag (s.entry i)
  | .read k => slotTag (s.slot k)

/-- The owner of an OUTSTANDING record. -/
def ownerOf : AccessRec → Option Owner
  | .outstanding o _ => some o
  | _ => none

theorem ownerOf_eq_some {a : AccessRec} {o : Owner} : ownerOf a = some o ↔ ∃ n, a = .outstanding o n := by
  cases a <;> simp [ownerOf]

theorem entryTag_eq_some {e : Entry} {t : AccessTag} : entryTag e = some t ↔ ∃ c, e = .issued c t := by
  cases e <;> simp [entryTag]

theorem slotTag_eq_some {x : Slot} {t : AccessTag} : slotTag x = some t ↔ ∃ r o, x = .issued r t o := by
  cases x <;> simp [slotTag]

@[simp] theorem ownerOf_recordAfter (e : AccessEnd) : ownerOf e.recordAfter = none := by cases e <;> rfl

@[simp] theorem ownerOf_tick (a : AccessRec) : ownerOf a.tick = ownerOf a := by cases a <;> rfl

@[simp] theorem entryTag_mapCommitted (f : Committed → Committed) (e : Entry) :
    entryTag (e.mapCommitted f) = entryTag e := by cases e <;> rfl

@[simp] theorem entryTag_dropReply (n : Port) (e : Entry) : entryTag (e.dropReply n) = entryTag e :=
  entryTag_mapCommitted _ e

@[simp] theorem entryTag_tick (e : Entry) : entryTag e.tick = entryTag e := by cases e <;> rfl

@[simp] theorem slotTag_dropWait (i : EntryIx) (x : Slot) : slotTag (x.dropWait i) = slotTag x := by
  cases x with
  | waiting r =>
    rw [Slot.dropWait, apply_ite slotTag]
    exact ite_self none
  | _ => rfl

@[simp] theorem slotTag_portReset (n : Port) (x : Slot) : slotTag (x.portReset n) = slotTag x := by
  cases x with
  | free => rfl
  | _ =>
    rw [Slot.portReset, apply_ite slotTag]
    exact ite_self _

/-- A record names an owner exactly where the owner is ISSUED under its tag. -/
theorem accessOwners_iff {s : State} :
    AccessOwners s ↔ ∀ t o, ownerOf (s.access t) = some o ↔ tagOf s o = some t := by
  constructor
  · rintro ⟨hwrite, hread, hentry, hslot⟩ t o
    rw [ownerOf_eq_some]
    cases o with
    | write i => exact ⟨fun ⟨n, h⟩ => entryTag_eq_some.mpr (hwrite t i n h), fun h =>
        let ⟨c, hc⟩ := entryTag_eq_some.mp h
        hentry i c t hc⟩
    | read k => exact ⟨fun ⟨n, h⟩ => slotTag_eq_some.mpr (hread t k n h), fun h =>
        let ⟨r, b, hr⟩ := slotTag_eq_some.mp h
        hslot k r t b hr⟩
  · intro h
    refine ⟨fun t i n ha => ?_, fun t k n ha => ?_, fun i c t hi => ?_, fun k r t b hk => ?_⟩
    · exact entryTag_eq_some.mp ((h t (.write i)).mp (ownerOf_eq_some.mpr ⟨n, ha⟩))
    · exact slotTag_eq_some.mp ((h t (.read k)).mp (ownerOf_eq_some.mpr ⟨n, ha⟩))
    · exact ownerOf_eq_some.mp ((h t (.write i)).mpr (entryTag_eq_some.mpr ⟨c, hi⟩))
    · exact ownerOf_eq_some.mp ((h t (.read k)).mpr (slotTag_eq_some.mpr ⟨r, b, hk⟩))

/-! ## How an event changes them -/

section Updates

variable {s u : State} {t : AccessTag} {o : Owner}

theorem accessOwners_congr (h : AccessOwners s) (ha : ∀ t, ownerOf (u.access t) = ownerOf (s.access t))
    (ho : ∀ o, tagOf u o = tagOf s o) : AccessOwners u :=
  accessOwners_iff.mpr fun t o => by rw [ha, ho]; exact accessOwners_iff.mp h t o

/-- The tags of owners are those of the entries and of the slots. -/
theorem tagOf_congr (he : ∀ i, entryTag (u.entry i) = entryTag (s.entry i))
    (hk : ∀ k, slotTag (u.slot k) = slotTag (s.slot k)) (o : Owner) : tagOf u o = tagOf s o := by
  cases o with
  | write i => exact he i
  | read k => exact hk k

/-- A FREE record takes an owner that is not ISSUED (R109). -/
theorem accessOwners_issue (h : AccessOwners s) (ht : ownerOf (s.access t) = none) (hfree : tagOf s o = none)
    (ha : ∀ b, ownerOf (u.access b) = if b = t then some o else ownerOf (s.access b))
    (ho : ∀ p, tagOf u p = if p = o then some t else tagOf s p) : AccessOwners u := by
  refine accessOwners_iff.mpr fun b p => ?_
  rw [ha, ho]
  have hbefore := accessOwners_iff.mp h b p
  split_ifs with hb hp hp
  · simp [hb, hp]
  · subst hb
    rw [← hbefore, ht]
    simp [Ne.symm hp]
  · subst hp
    rw [hbefore, hfree]
    simp [Ne.symm hb]
  · exact hbefore

/-- A record and its owner end together (R110, R112). -/
theorem accessOwners_end (h : AccessOwners s) (ht : ownerOf (s.access t) = some o)
    (ha : ∀ b, ownerOf (u.access b) = if b = t then none else ownerOf (s.access b))
    (ho : ∀ p, tagOf u p = if p = o then none else tagOf s p) : AccessOwners u := by
  refine accessOwners_iff.mpr fun b p => ?_
  rw [ha, ho]
  have hbefore := accessOwners_iff.mp h b p
  have hnamed := (accessOwners_iff.mp h t o).mp ht
  split_ifs with hb hp hp
  · simp
  · subst hb
    rw [← hbefore, ht]
    simp [Ne.symm hp]
  · subst hp
    rw [hbefore, hnamed]
    simp [Ne.symm hb]
  · exact hbefore

theorem ownerOf_setAccess (s : State) (t : AccessTag) (a : AccessRec) (b : AccessTag) :
    ownerOf ((s.setAccess t a).access b) = if b = t then ownerOf a else ownerOf (s.access b) := by
  rw [access_setAccess, apply_ite ownerOf]

end Updates

/-! ## Every step keeps them -/

section Steps

variable {s t : State} {p : Port} {tag : ReqTag}

theorem accessOwners_of_tables (hst : SameTables s t) (h : AccessOwners s) : AccessOwners t :=
  accessOwners_congr h (fun a => by simp only [State.access, hst.accesses])
    (tagOf_congr (fun i => by rw [entry_of_entries hst.entries]) fun k => by simp only [State.slot, hst.slots])

theorem entryTag_setEntry {i : EntryIx} {e : Entry} (he : entryTag e = entryTag (s.entry i)) (j : EntryIx) :
    entryTag ((s.setEntry i e).entry j) = entryTag (s.entry j) := by
  rw [entry_setEntry]
  split_ifs with hj
  · rw [he, hj]
  · rfl

/-- Released members were not ISSUED. -/
theorem entryTag_release (hE : EntriesExact s) {c : CtxIx} {o : OpenCtx} (hc : s.ctx c = .opened o) {i : EntryIx} :
    entryTag (if i ∈ o.members then .free else s.entry i) = entryTag (s.entry i) := by
  split_ifs with hi
  · obtain ⟨m, hm, -⟩ := hE.2.member c o hc i hi
    rw [hm]
    rfl
  · rfl

/-- A move of an acceptance leaves records, and the tags of what is ISSUED. -/
theorem accessOwners_move {b : Bool} (hE : EntriesExact s) (hI : AccessOwners s) (h : Move s p tag b t) :
    AccessOwners t := by
  have entries : ∀ {t : State}, t.accesses = s.accesses → t.slots = s.slots →
      (∀ i, entryTag (t.entry i) = entryTag (s.entry i)) → AccessOwners t := fun ha hk he =>
    accessOwners_congr hI (fun a => by simp only [State.access, ha])
      (tagOf_congr he fun k => by simp only [State.slot, hk])
  cases h with
  | answer => exact hI
  | bOpen | fence => exact entries rfl rfl fun _ => rfl
  | @slot k x hk hx =>
    refine accessOwners_congr hI (fun _ => rfl) (tagOf_congr (fun _ => rfl) fun j => ?_)
    rw [slot_setSlot]
    split_ifs with hj
    · rw [hj, hk]
      cases hx <;> rfl
    · rfl
  | combine mask data hi | overlay mask data hc hmem hi => exact entries rfl rfl (entryTag_setEntry (by rw [hi]; rfl))
  | allocate cls line mask data hi hmode =>
    exact entries (by simp) (by simp) (entryTag_setEntry (e := .pending _) (by rw [hi]; rfl))
  | join mask data hc hi hmode hline hquota hspace =>
    exact entries (by simp) (by simp) (entryTag_setEntry (e := .member _) (by rw [hi]; rfl))
  | @abort c o reason hc =>
    refine entries (by simp) (by simp) fun i => ?_
    rw [BundleTable.entry_abortCtx, hc]
    exact entryTag_release hE hc
  | @bClose c o hc =>
    refine entries (by simp) (by simp) fun i => ?_
    rw [entry_of_entries (by simp : (freeCtx c (commitMembers o.members s)).entries = (commitMembers o.members s).entries),
      entry_commitMembers]
    split_ifs with hi
    · obtain ⟨m, hm, -⟩ := hE.2.member c o hc i hi
      rw [hm]
      rfl
    · rfl
  | drop hc => exact entries (by simp) (by simp) fun i => congrArg entryTag (entry_of_entries (by simp) i)
  | @cancel c o hc =>
    refine entries (by simp) (by simp) fun i => ?_
    rw [← entryTag_release hE hc, ← BundleTable.entry_cancelled s c o]
    rfl

/-- The events keep records and owners naming each other, where the lists are exact. -/
theorem conserved_accessOwners : Conserved EntriesExact AccessOwners := by
  refine TablesConserved.conserved {
    tables := accessOwners_of_tables
    move := accessOwners_move
    issueWrite := fun {s t i c} _ hI ht _ hc => ?_
    issueRead := fun {s t k r} _ hI ht hr => ?_
    retire := fun {s t i n c t'} e _ hI ht hi => ?_
    answer := fun {s t k n r t' b} e _ hI ht hk => ?_
    records := fun {s t} _ hI ht => ?_
    advance := fun {s} _ hI => accessOwners_congr hI (fun a => by rw [access_advance, ownerOf_tick])
      (tagOf_congr (fun i => by rw [entry_advance, entryTag_tick]) fun k => by simp [State.slot])
    portReset := fun {s} n hE hI => ?_
    reset := ?_ }
  · refine accessOwners_issue hI (by rw [ht]; rfl) (o := .write i) (by simp [tagOf, hc, entryTag]) (fun b => ?_) fun o => ?_
    · rw [ownerOf_setAccess]
      simp [State.access, ownerOf]
    · rw [issueEntry_of_pending hc]
      cases o with
      | write j =>
        refine (congrArg entryTag (entry_setEntry s i j (.issued c t))).trans ?_
        rw [apply_ite entryTag]
        simp only [Owner.write.injEq]
        rfl
      | read k => exact (congrArg slotTag (slot_dropWaits i (s.setEntry i (.issued c t)) k)).trans (slotTag_dropWait i _)
  · refine accessOwners_issue hI (by rw [ht]; rfl) (o := .read k) (by simp [tagOf, hr, slotTag]) (fun b => ?_) fun o => ?_
    · rw [ownerOf_setAccess]
      simp [State.access, ownerOf]
    · rw [issueSlot_of_ready hr]
      cases o with
      | write i =>
        refine (congrArg entryTag (entry_unblock [k] (s.setSlot k (.issued r t false)) i)).trans ?_
        exact entryTag_mapCommitted _ _
      | read j =>
        refine (congrArg slotTag (slot_setSlot s k j (.issued r t false))).trans ?_
        rw [apply_ite slotTag]
        simp only [Owner.read.injEq]
        rfl
  · have hentries := entries_endWrite (s := s.setAccess t e.recordAfter) hi e
    refine accessOwners_end hI (ownerOf_eq_some.mpr ⟨n, ht⟩) (fun b => ?_) fun o => ?_
    · rw [← ownerOf_recordAfter e, ← ownerOf_setAccess]
      simp [State.access]
    · cases o with
      | write j =>
        simp only [tagOf, State.entry, hentries, Table.get_set, apply_ite entryTag, Owner.write.injEq]
        rfl
      | read k => simp [tagOf, State.slot]
  · refine accessOwners_end hI (ownerOf_eq_some.mpr ⟨n, ht⟩) (fun b => ?_) fun o => ?_
    · rw [← ownerOf_recordAfter e, ← ownerOf_setAccess]
      rfl
    · cases o with
      | write i => rfl
      | read j =>
        refine (congrArg slotTag (slot_setSlot _ k j .free)).trans ?_
        simp only [apply_ite slotTag, Owner.read.injEq]
        rfl
  · refine accessOwners_congr hI (fun a => Option.ext fun o => ?_)
      (tagOf_congr (fun i => by rw [entry_of_entries ht.frame.tables.entries])
        fun k => by simp only [State.slot, ht.frame.tables.slots])
    rw [ownerOf_eq_some, ownerOf_eq_some]
    refine exists_congr fun n => ⟨ht.after a o n, fun ha => ht.before a o n ha ?_⟩
    cases o with
    | write i => exact (hI.writeOwner a i n ha).imp fun c hc => ⟨a, hc⟩
    | read k => exact (hI.readOwner a k n ha).imp fun r ⟨b, hr⟩ => ⟨a, b, hr⟩
  · refine accessOwners_congr hI (fun a => by simp [State.access]) (tagOf_congr (fun i => ?_) fun k => ?_)
    · rw [entry_portReset, entryTag_dropReply, entryTag_mapCommitted]
      split_ifs with hi
      · obtain ⟨c, o, hc, -, hmem⟩ := mem_membersOfPort.mp hi
        rw [← entryTag_release hE hc, if_pos hmem]
      · rfl
    · rw [slot_portReset, slotTag_portReset]
  · refine accessOwners_iff.mpr fun t o => iff_of_false ?_ ?_
    · rw [show State.reset.access t = .free from Table.get_replicate _ t]
      exact nofun
    · cases o with
      | write i => rw [tagOf, show State.reset.entry i = .free from Table.get_replicate _ i]; exact nofun
      | read k => rw [tagOf, show State.reset.slot k = .free from Table.get_replicate _ k]; exact nofun

end Steps

/-- Settles O54: an issue names record and owner at once, an end clears both, and nothing else touches what is ISSUED. -/
theorem stepKeepsAccessOwners : Obligations.StepKeepsAccessOwners := fun _ _ hE hI hstep =>
  ((conserved_accessOwners.kept kept_entriesExact).step ⟨hE, hI⟩ hstep).2

end Sys2Proof.Owners
end

section
/-! Lanes and ranks (R64): the seat that a context in use takes, how an opening, a free and a port reset change the seats,
and that every step keeps their laws. -/

namespace Sys2Proof.Seats

open Sys2Proof.Machine Sys2Proof.Safety Sys2Proof.Events

/-! ## The seats -/

/-- The port, lane and rank of a context in use. -/
def seat : Ctx → Option (Port × Lane × Rank)
  | .free => none
  | .opened o => some (o.port, o.lane, o.rank)
  | .aborted p l r _ => some (p, l, r)

/-- The seat is the port's. -/
def seatOf (p : Port) (y : Option (Port × Lane × Rank)) : Bool := y.any fun z => z.1 == p

theorem seatOf_iff {p : Port} {y : Option (Port × Lane × Rank)} : seatOf p y = true ↔ ∃ l r, y = some (p, l, r) := by
  cases y with
  | none => simp [seatOf]
  | some z => simp [seatOf, Prod.ext_iff]

/-- The laws of R64 over the seats. -/
structure Seated (σ : CtxIx → Option (Port × Lane × Rank)) : Prop where
  lane : ∀ {c d p l r q}, σ c = some (p, l, r) → σ d = some (p, l, q) → c = d
  rank : ∀ {c d p l m r}, σ c = some (p, l, r) → σ d = some (p, m, r) → c = d
  first : ∀ {c p l}, σ c = some (p, l, .second) → ∃ d m, σ d = some (p, m, .first)

section Views

variable {x : Ctx} {p : Port} {l : Lane} {r : Rank}

theorem laneOf_eq (x : Ctx) : x.laneOf? = (seat x).map fun y => (y.1, y.2.1) := by cases x <;> rfl

theorem rank_eq (x : Ctx) : x.rank? = (seat x).map fun y => y.2.2 := by cases x <;> rfl

theorem ownedBy_eq (p : Port) (x : Ctx) : x.ownedBy p = seatOf p (seat x) := by cases x <;> rfl

theorem ownedBy_iff : x.ownedBy p = true ↔ ∃ l r, seat x = some (p, l, r) := by rw [ownedBy_eq, seatOf_iff]

theorem laneOf_eq_some : x.laneOf? = some (p, l) ↔ ∃ r, seat x = some (p, l, r) := by
  cases x <;> simp [Ctx.laneOf?, seat]

theorem ownedBy_and_rank_iff : x.ownedBy p = true ∧ x.rank? = some r ↔ ∃ l, seat x = some (p, l, r) := by
  cases x <;> simp [Ctx.ownedBy, Ctx.laneOf?, Ctx.rank?, seat]

theorem seat_asFirst (x : Ctx) : seat x.asFirst = (seat x).map fun y => (y.1, y.2.1, .first) := by cases x <;> rfl

theorem seat_tick (x : Ctx) : seat x.tick = seat x := by cases x <;> rfl

theorem seat_abortedFor (reason : AbortReason) (x : Ctx) : seat (BundleTable.abortedFor reason x) = seat x := by
  cases x <;> rfl

end Views

theorem lanesAndRanks_iff {s : State} : LanesAndRanks s ↔ Seated fun c => seat (s.ctx c) := by
  constructor
  · rintro ⟨hlane, hrank, hfirst⟩
    refine ⟨fun {c d p l r q} hc hd => hlane c d ?_ ?_, fun {c d p l m r} hc hd => hrank c d p ?_ ?_ ?_,
      fun {c p l} hc => ?_⟩
    · rw [laneOf_eq_some.mpr ⟨r, hc⟩, laneOf_eq_some.mpr ⟨q, hd⟩]
    · rw [laneOf_eq_some.mpr ⟨r, hc⟩]
      exact nofun
    · exact ownedBy_iff.mpr ⟨l, r, hc⟩
    · exact ownedBy_iff.mpr ⟨m, r, hd⟩
    · simp only [rank_eq, hc, hd, Option.map_some]
    · obtain ⟨howned, hsecond⟩ := ownedBy_and_rank_iff.mpr ⟨l, hc⟩
      obtain ⟨d, hd⟩ := hfirst c p howned hsecond
      exact ⟨d, ownedBy_and_rank_iff.mp hd⟩
  · rintro ⟨hlane, hrank, hfirst⟩
    refine ⟨fun c d hcd hne => ?_, fun c d p hc hd hr => ?_, fun c p hc hr => ?_⟩
    · obtain ⟨⟨p, l⟩, hc⟩ := Option.ne_none_iff_exists'.mp hne
      obtain ⟨r, hr⟩ := laneOf_eq_some.mp hc
      obtain ⟨q, hq⟩ := laneOf_eq_some.mp (hcd ▸ hc)
      exact hlane hr hq
    · obtain ⟨l, r, hl⟩ := ownedBy_iff.mp hc
      obtain ⟨m, q, hm⟩ := ownedBy_iff.mp hd
      simp only [rank_eq, hl, hm, Option.map_some, Option.some.injEq] at hr
      subst hr
      exact hrank hl hm
    · obtain ⟨l, hl⟩ := ownedBy_and_rank_iff.mp ⟨hc, hr⟩
      obtain ⟨d, m, hd⟩ := hfirst hl
      exact ⟨d, ownedBy_and_rank_iff.mpr ⟨m, hd⟩⟩

/-! ## How an event changes them -/

section Updates

variable {σ τ : CtxIx → Option (Port × Lane × Rank)} {c : CtxIx} {p : Port} {l : Lane} {r : Rank}

/-- On two lanes a port has one context besides that of a free lane, and it is the FIRST. -/
theorem Seated.first_of_free_lane (h : Seated σ) (hlane : ∀ d q, σ d ≠ some (p, l, q)) {d : CtxIx} {m : Lane} {q : Rank}
    (hd : σ d = some (p, m, q)) : q = .first := by
  cases q with
  | first => rfl
  | second =>
    obtain ⟨e, n, he⟩ := h.first hd
    have hm : m ≠ l := by
      rintro rfl
      exact hlane d _ hd
    have hn : n ≠ l := by
      rintro rfl
      exact hlane e _ he
    have hmn : m = n := by cases l <;> cases m <;> cases n <;> simp_all
    subst hmn
    obtain rfl := h.lane hd he
    exact nomatch hd.symm.trans he

/-- An opened context takes a free lane: FIRST where its port has no other, SECOND beside the FIRST (R64). -/
theorem Seated.opens (h : Seated σ) (hlane : ∀ d q, σ d ≠ some (p, l, q))
    (hfirst : r = .first → ∀ d m q, σ d ≠ some (p, m, q)) (hsecond : r = .second → ∃ d m q, σ d = some (p, m, q))
    (hc : σ c = none) (hτ : ∀ d, τ d = if d = c then some (p, l, r) else σ d) : Seated τ := by
  -- a seat after the event is one before it, or the new one
  have hseat : ∀ {d y}, τ d = some y → σ d = some y ∨ (d = c ∧ (p, l, r) = y) := by
    intro d y hd
    rw [hτ] at hd
    split_ifs at hd with hdc
    · exact .inr ⟨hdc, Option.some.inj hd⟩
    · exact .inl hd
  have hkeep : ∀ {d y}, σ d = some y → τ d = some y := by
    intro d y hd
    rw [hτ, if_neg, hd]
    rintro rfl
    exact nomatch hc.symm.trans hd
  -- no context before the event has the port and rank of the new one
  have hfresh : ∀ {d m}, σ d ≠ some (p, m, r) := by
    intro d m hd
    cases r with
    | first => exact hfirst rfl d m _ hd
    | second => exact nomatch h.first_of_free_lane hlane hd
  refine ⟨fun {d e q m a b} hd he => ?_, fun {d e q m n a} hd he => ?_, fun {d q m} hd => ?_⟩
  · obtain hd | ⟨rfl, heq⟩ := hseat hd <;> obtain he | ⟨rfl, heq'⟩ := hseat he
    · exact h.lane hd he
    · cases heq'
      exact absurd hd (hlane d _)
    · cases heq
      exact absurd he (hlane e _)
    · rfl
  · obtain hd | ⟨rfl, heq⟩ := hseat hd <;> obtain he | ⟨rfl, heq'⟩ := hseat he
    · exact h.rank hd he
    · cases heq'
      exact absurd hd hfresh
    · cases heq
      exact absurd he hfresh
    · rfl
  · obtain hd | ⟨rfl, heq⟩ := hseat hd
    · obtain ⟨e, n, he⟩ := h.first hd
      exact ⟨e, n, hkeep he⟩
    · cases heq
      obtain ⟨e, n, a, he⟩ := hsecond rfl
      obtain rfl := h.first_of_free_lane hlane he
      exact ⟨e, n, hkeep he⟩

/-- A context is freed; beside a FIRST one its port's SECOND becomes FIRST (R64). -/
theorem Seated.frees (h : Seated σ) (hc : σ c = some (p, l, r))
    (hτ : ∀ d, τ d = if d = c then none else
      if r = .first ∧ seatOf p (σ d) = true then (σ d).map fun y => (y.1, y.2.1, .first) else σ d) :
    Seated τ := by
  -- a seat after the event comes from one before it, on the same lane
  have hseat : ∀ {d q m a}, τ d = some (q, m, a) → d ≠ c ∧
      ((q = p ∧ r = .first ∧ a = .first ∧ σ d = some (p, m, .second)) ∨
        (¬ (q = p ∧ r = .first) ∧ σ d = some (q, m, a))) := by
    intro d q m a hd
    rw [hτ] at hd
    split_ifs at hd with hdc hmove
    · obtain ⟨hr, hp⟩ := hmove
      obtain ⟨n, b, hn⟩ := seatOf_iff.mp hp
      rw [hn] at hd
      cases hd
      refine ⟨hdc, .inl ⟨rfl, hr, rfl, ?_⟩⟩
      cases b with
      | first => exact absurd (h.rank hn (hr ▸ hc)) hdc
      | second => exact hn
    · refine ⟨hdc, .inr ⟨?_, hd⟩⟩
      rintro ⟨rfl, hr⟩
      exact hmove ⟨hr, seatOf_iff.mpr ⟨m, a, hd⟩⟩
  refine ⟨fun {d e q m a b} hd he => ?_, fun {d e q m n a} hd he => ?_, fun {d q m} hd => ?_⟩
  · obtain ⟨-, ⟨rfl, -, -, hd⟩ | ⟨-, hd⟩⟩ := hseat hd <;> obtain ⟨-, ⟨he0, -, -, he⟩ | ⟨-, he⟩⟩ := hseat he
    · exact h.lane hd he
    · exact h.lane hd he
    · exact h.lane hd (he0 ▸ he)
    · exact h.lane hd he
  · obtain ⟨-, ⟨rfl, hr, -, hd⟩ | ⟨hne, hd⟩⟩ := hseat hd <;> obtain ⟨-, ⟨he0, hr', -, he⟩ | ⟨hne', he⟩⟩ := hseat he
    · exact h.rank hd he
    · exact absurd ⟨rfl, hr⟩ hne'
    · exact absurd ⟨he0, hr'⟩ hne
    · exact h.rank hd he
  · obtain ⟨hdc, ⟨-, -, hsecond, -⟩ | ⟨hne, hd⟩⟩ := hseat hd
    · cases hsecond
    · obtain ⟨e, n, he⟩ := h.first hd
      have hec : e ≠ c := by
        rintro rfl
        rw [hc] at he
        cases he
        exact hne ⟨rfl, rfl⟩
      refine ⟨e, n, ?_⟩
      rw [hτ, if_neg hec, if_neg, he]
      rintro ⟨hr, hp⟩
      obtain ⟨k, b, hk⟩ := seatOf_iff.mp hp
      rw [he] at hk
      cases hk
      exact hne ⟨rfl, hr⟩

/-- The contexts of a port are freed together (R83). -/
theorem Seated.clears (h : Seated σ)
    (hτ : ∀ d, τ d = if seatOf p (σ d) = true then none else σ d) : Seated τ := by
  have hseat : ∀ {d y}, τ d = some y → σ d = some y := by
    intro d y hd
    rw [hτ] at hd
    split_ifs at hd
    exact hd
  refine ⟨fun hd he => h.lane (hseat hd) (hseat he), fun hd he => h.rank (hseat hd) (hseat he),
    fun {d q m} hd => ?_⟩
  obtain ⟨e, n, he⟩ := h.first (hseat hd)
  have hqp : q ≠ p := by
    rintro rfl
    have hnone : τ d = none := (hτ d).trans (if_pos (seatOf_iff.mpr ⟨m, .second, hseat hd⟩))
    exact nomatch hd.symm.trans hnone
  refine ⟨e, n, ?_⟩
  rw [hτ, if_neg, he]
  intro hp
  obtain ⟨k, b, hk⟩ := seatOf_iff.mp hp
  rw [he] at hk
  cases hk
  exact hqp rfl

end Updates

/-! ## Every step keeps them -/

section Steps

variable {s t : State} {p : Port} {tag : ReqTag}

theorem lanesAndRanks_congr (h : LanesAndRanks s) (hσ : ∀ c, seat (t.ctx c) = seat (s.ctx c)) : LanesAndRanks t := by
  rw [lanesAndRanks_iff, funext hσ]
  exact lanesAndRanks_iff.mp h

theorem lanesAndRanks_of_contexts (hc : t.contexts = s.contexts) (h : LanesAndRanks s) : LanesAndRanks t :=
  lanesAndRanks_congr h fun c => by simp only [State.ctx, hc]

theorem seat_setCtx {c : CtxIx} {x : Ctx} (hx : seat x = seat (s.ctx c)) (d : CtxIx) :
    seat ((s.setCtx c x).ctx d) = seat (s.ctx d) := by
  rw [ctx_setCtx]
  split_ifs with hd
  · rw [hx, hd]
  · rfl

/-- A freed context leaves its seat as R64 says. -/
theorem lanesAndRanks_freeCtx (h : LanesAndRanks s) (c : CtxIx) : LanesAndRanks (freeCtx c s) := by
  cases hc : seat (s.ctx c) with
  | none =>
    refine lanesAndRanks_congr h fun d => ?_
    have hlane : (s.ctx c).laneOf? = none := by rw [laneOf_eq, hc]; rfl
    rw [ctx_freeCtx, hlane]
    split_ifs with hd
    · rw [hd, hc]
      rfl
    · rfl
  | some y =>
    obtain ⟨p, l, r⟩ := y
    refine lanesAndRanks_iff.mpr ((lanesAndRanks_iff.mp h).frees hc fun d => ?_)
    have hlane : (s.ctx c).laneOf? = some (p, l) := by rw [laneOf_eq, hc]; rfl
    have hrank : (s.ctx c).rank? = some r := by rw [rank_eq, hc]; rfl
    rw [ctx_freeCtx, apply_ite seat, hlane, hrank]
    refine ite_congr rfl (fun _ => rfl) fun _ => ?_
    cases r with
    | first =>
      simp only [true_and, ← ownedBy_eq, ← seat_asFirst]
      exact apply_ite seat _ _ _
    | second => exact (if_neg (by simp)).symm

theorem newRank_cases (s : State) (p : Port) :
    (newRank s p = .first → ∀ d m q, seat (s.ctx d) ≠ some (p, m, q)) ∧
      (newRank s p = .second → ∃ d m q, seat (s.ctx d) = some (p, m, q)) := by
  unfold newRank
  split_ifs with hcount
  · refine ⟨fun _ d m q hd => ?_, nofun⟩
    have hnot := Table.count_eq_zero.mp hcount d
    rw [ownedBy_iff.mpr ⟨m, q, hd⟩] at hnot
    cases hnot
  · refine ⟨nofun, fun _ => ?_⟩
    obtain ⟨d, hd⟩ := not_forall.mp (mt Table.count_eq_zero.mpr hcount)
    exact ⟨d, ownedBy_iff.mp (by simpa using hd)⟩

/-- A move of an acceptance keeps the laws. -/
theorem lanesAndRanks_move {b : Bool} (hI : LanesAndRanks s) (h : Move s p tag b t) : LanesAndRanks t := by
  cases h with
  | answer => exact hI
  | slot | combine | allocate | fence => exact lanesAndRanks_of_contexts (by simp) hI
  | overlay mask data hc hmem hi =>
    exact lanesAndRanks_congr hI (seat_setCtx (by exact (congrArg seat hc).symm))
  | join mask data hc hi hmode hline hquota hspace =>
    exact lanesAndRanks_congr hI (seat_setCtx (by exact (congrArg seat hc).symm))
  | abort reason hc =>
    refine lanesAndRanks_congr hI fun d => ?_
    rw [BundleTable.ctx_abortCtx]
    split_ifs
    · exact seat_abortedFor reason _
    · rfl
  | bOpen hmode hlane hc =>
    obtain ⟨hfirst, hsecond⟩ := newRank_cases s p
    refine lanesAndRanks_iff.mpr ((lanesAndRanks_iff.mp hI).opens (fun d q hd => ?_) hfirst hsecond (by rw [hc]; rfl)
      fun d => (congrArg seat (ctx_setCtx s _ d _)).trans (apply_ite seat _ _ _))
    exact contextOn_eq_none.mp hlane d (laneOf_eq_some.mpr ⟨q, hd⟩)
  | @bClose c o hc =>
    have hcommitted : LanesAndRanks (commitMembers o.members s) := lanesAndRanks_of_contexts (s := s) rfl hI
    exact lanesAndRanks_freeCtx hcommitted c
  | drop hc => exact lanesAndRanks_freeCtx hI _
  | @cancel c o hc =>
    have hreleased : LanesAndRanks (releaseEntries o.members s) := lanesAndRanks_of_contexts (s := s) rfl hI
    exact lanesAndRanks_of_contexts (by simp) (lanesAndRanks_freeCtx hreleased c)

/-- The events keep the laws of lanes and ranks. -/
theorem conserved_lanesAndRanks : Conserved (fun _ => True) LanesAndRanks := by
  refine TablesConserved.conserved {
    tables := fun hst => lanesAndRanks_of_contexts hst.contexts
    move := fun _ => lanesAndRanks_move
    issueWrite := fun _ hI _ _ _ => lanesAndRanks_of_contexts (by simp) hI
    issueRead := fun _ hI _ _ => lanesAndRanks_of_contexts (by simp) hI
    retire := fun _ _ hI _ _ => lanesAndRanks_of_contexts (by simp) hI
    answer := fun {s t k n r t' b} _ _ hI _ _ => lanesAndRanks_of_contexts (s := s) rfl hI
    records := fun {s t} _ hI ht => lanesAndRanks_of_contexts (s := s) ht.frame.tables.contexts hI
    advance := fun _ hI => lanesAndRanks_congr hI fun c => by rw [ctx_advance, seat_tick]
    portReset := fun {s} n _ hI => ?_
    reset := ?_ }
  · refine lanesAndRanks_iff.mpr ((lanesAndRanks_iff.mp hI).clears (p := n) fun d => ?_)
    rw [ctx_portReset, apply_ite seat, ownedBy_eq]
    rfl
  · have hseat : ∀ c, seat (State.reset.ctx c) = none := fun c => congrArg seat (Table.get_replicate _ c)
    refine lanesAndRanks_iff.mpr ⟨fun hc => ?_, fun hc => ?_, fun hc => ?_⟩ <;> exact nomatch (hseat _).symm.trans hc

end Steps

/-- Settles O55: an opening takes a free lane beside at most one context, and a free promotes the one that is left. -/
theorem stepKeepsLanesAndRanks : Obligations.StepKeepsLanesAndRanks := fun _ _ hI hstep =>
  conserved_lanesAndRanks.kept_alone.step hI hstep

end Sys2Proof.Seats
end

section
/-! The bounds of BUNDLE_QUOTA and RESERVE on the members (R70, R73): no event but a member write adds to them, and the two
items are written only where no member is held. -/

namespace Sys2Proof.Bounds

open Sys2Proof.Machine Sys2Proof.Safety Sys2Proof.Events Sys2Proof.ExactLists Sys2Proof.ConfigObjects

section Updates

variable {s t : State}

theorem isMember_iff {e : Entry} : e.isMember = true ↔ ∃ m, e = .member m := by cases e <;> simp [Entry.isMember]

theorem isMember_mapCommitted (f : Committed → Committed) (e : Entry) : (e.mapCommitted f).isMember = e.isMember := by
  cases e <;> rfl

theorem isMember_tick (e : Entry) : e.tick.isMember = e.isMember := by cases e <;> rfl

theorem isMember_commitMember (s : State) (e : Entry) : (commitMember s e).isMember = false := by cases e <;> rfl

/-- No event but a member write makes an entry MEMBER. -/
def NoNewMember (s t : State) : Prop := ∀ i, (t.entry i).isMember = true → (s.entry i).isMember = true

/-- No list is longer than before: each is one from before, or empty. -/
def NoLongerList (s t : State) : Prop :=
  ∀ c p l, held (t.ctx c) = some (p, l) → held (s.ctx c) = some (p, l) ∨ l = []

theorem noNewMember_of_entries (h : t.entries = s.entries) : NoNewMember s t := fun i hi => by
  rwa [entry_of_entries h] at hi

theorem noLongerList_of_held (h : ∀ c, held (t.ctx c) = held (s.ctx c)) : NoLongerList s t := fun c _ _ hl =>
  .inl (h c ▸ hl)

theorem noLongerList_of_contexts (h : t.contexts = s.contexts) : NoLongerList s t :=
  noLongerList_of_held fun c => by simp only [State.ctx, h]

theorem memberEntries_mono (h : NoNewMember s t) : memberEntries t ≤ memberEntries s := Table.count_mono h

/-- Fewer members under the same items. -/
theorem memberBounds_of (hI : MemberBounds s) (hmem : NoNewMember s t) (hlist : NoLongerList s t)
    (hconfig : t.config = s.config) : MemberBounds t := by
  obtain ⟨hquota, hreserve⟩ := hI
  have hcount := memberEntries_mono hmem
  refine ⟨fun c o hc => ?_, by rw [hconfig]; omega⟩
  obtain hold | hnil := hlist c o.port o.members (held_eq_some.mpr ⟨o, hc, rfl, rfl⟩)
  · obtain ⟨q, hq, -, hmembers⟩ := held_eq_some.mp hold
    rw [← hmembers, hconfig]
    exact hquota c q hq
  · simp [hnil]

/-- In the states of R152 no member is held. -/
theorem no_members_of_unlocked (hE : EntriesExact s) (h : Unlocked s) :
    (∀ c o, s.ctx c = .opened o → o.members = []) ∧ memberEntries s = 0 := by
  obtain ⟨-, hopen⟩ | ⟨-, hocc⟩ := h
  · refine ⟨fun c o hc => absurd hc (hopen c o), Table.count_eq_zero.mpr fun i => ?_⟩
    refine Bool.eq_false_iff.mpr fun hi => ?_
    obtain ⟨m, hm⟩ := isMember_iff.mp hi
    obtain ⟨c, o, hc, -⟩ := hE.2.held i m hm
    exact hopen c o hc
  · have hfree : ∀ i, s.entry i = .free := fun i => by
      have := Table.count_eq_zero.mp hocc i
      simpa using this
    refine ⟨fun c o hc => List.eq_nil_iff_forall_not_mem.mpr fun i hi => ?_, Table.count_eq_zero.mpr fun i => ?_⟩
    · obtain ⟨m, hm, -⟩ := hE.2.member c o hc i hi
      exact nomatch (hfree i).symm.trans hm
    · rw [show s.entries.get i = .free from hfree i]
      rfl

/-- Where no member is held, the bounds hold for every RESERVE in range. -/
theorem memberBounds_of_no_members (h : (∀ c o, s.ctx c = .opened o → o.members = []) ∧ memberEntries s = 0)
    (htables : SameTables s t) (hreserve : t.config.reserve ≤ 64) : MemberBounds t := by
  obtain ⟨hlists, hcount⟩ := h
  refine ⟨fun c o hc => ?_, ?_⟩
  · rw [hlists c o (by rw [← hc, State.ctx, State.ctx, htables.contexts])]
    exact Nat.zero_le _
  · rw [memberEntries, htables.entries, ← memberEntries, hcount]
    omega

theorem memberBounds_of_tables (hI : MemberBounds s) (htables : SameTables s t)
    (hquota : t.config.bundleQuota = s.config.bundleQuota) (hreserve : t.config.reserve = s.config.reserve) :
    MemberBounds t := by
  obtain ⟨hlists, hcount⟩ := hI
  refine ⟨fun c o hc => ?_, ?_⟩
  · rw [hquota]
    exact hlists c o (by rw [← hc, State.ctx, State.ctx, htables.contexts])
  · rwa [memberEntries, htables.entries, ← memberEntries, hreserve]

/-- A write of a configuration item keeps the bounds: the two items are interlocked (R152). -/
theorem memberBounds_config (hE : EntriesExact s) (hI : MemberBounds s) (i : ConfigItem) (v : Word) :
    MemberBounds (writeConfig i v s).1 := by
  have htables := sameTables_writeConfig i v s
  have unlocked : interlockPasses s = true → (∀ c o, s.ctx c = .opened o → o.members = []) ∧ memberEntries s = 0 :=
    fun h => no_members_of_unlocked hE (interlockPasses_iff.mp h)
  have hkeep : ∀ {b : Bool} {t : State}, SameTables s t → t.config.bundleQuota = s.config.bundleQuota →
      t.config.reserve = s.config.reserve → MemberBounds (storeIf b s t).1 := fun ht hq hr =>
    storeIf_cases hI fun _ => memberBounds_of_tables hI ht hq hr
  cases i with
  | bundleQuota =>
    refine interlocked_cases hI fun hlock => storeIf_cases hI fun _ => ?_
    have hreserve : s.config.reserve ≤ 64 := by have := hI.2; omega
    exact memberBounds_of_no_members (unlocked hlock) ⟨rfl, rfl, rfl, rfl, rfl, rfl⟩ hreserve
  | reserve =>
    refine interlocked_cases hI fun hlock => storeIf_cases hI fun hok => ?_
    have hrange := (fits_and_inRange_iff (by decide)).mp hok
    exact memberBounds_of_no_members (unlocked hlock) ⟨rfl, rfl, rfl, rfl, rfl, rfl⟩ (hrange.2.trans (by decide))
  | tbdiv =>
    simp only [writeConfig, writeTbdiv]
    split_ifs
    · exact hkeep ⟨rfl, rfl, rfl, rfl, rfl, rfl⟩ rfl rfl
    · exact hI
  | defaultClass =>
    refine interlocked_cases hI fun _ => ?_
    split
    · exact memberBounds_of_tables (s := s) hI ⟨rfl, rfl, rfl, rfl, rfl, rfl⟩ rfl rfl
    · exact hI
  | _ => exact hkeep ⟨rfl, rfl, rfl, rfl, rfl, rfl⟩ rfl rfl

end Updates

/-! ## Every step keeps them -/

section Steps

variable {s t : State} {p : Port} {tag : ReqTag}

theorem noNewMember_setEntry {i : EntryIx} {e : Entry} (he : e.isMember = true → (s.entry i).isMember = true) :
    NoNewMember s (s.setEntry i e) := fun j hj => by
  rw [entry_setEntry] at hj
  split_ifs at hj with hji
  · rw [hji]
    exact he hj
  · exact hj

theorem noNewMember_release {l : List EntryIx} (h : ∀ i, t.entry i = if i ∈ l then .free else s.entry i) :
    NoNewMember s t := fun i hi => by
  rw [h] at hi
  split_ifs at hi
  · cases hi
  · exact hi

theorem noLongerList_freeCtx {u : State} (c : CtxIx) (hu : u.contexts = s.contexts) (ht : t.contexts = (freeCtx c u).contexts) :
    NoLongerList s t := fun d p l hd => by
  rw [State.ctx, ht, ← State.ctx, held_freeCtx] at hd
  split_ifs at hd
  rw [State.ctx, hu] at hd
  exact .inl hd

/-- One more member, where R70 finds space for it (R72). -/
theorem memberEntries_setEntry {i : EntryIx} (hi : s.entry i = .free) (m : Member) :
    memberEntries (s.setEntry i (.member m)) = memberEntries s + 1 := by
  have hcount := Table.count_set Entry.isMember s.entries i (.member m)
  rw [show s.entries.get i = .free from hi] at hcount
  simpa [Entry.isMember, memberEntries] using hcount

/-- A move of an acceptance keeps the bounds: R69 and R70 are checked before a member joins. -/
theorem memberBounds_move {b : Bool} (hI : MemberBounds s) (h : Move s p tag b t) : MemberBounds t := by
  cases h with
  | answer => exact hI
  | slot | fence =>
    exact memberBounds_of (s := s) hI (noNewMember_of_entries rfl) (noLongerList_of_contexts rfl) rfl
  | combine mask data hi =>
    exact memberBounds_of hI (noNewMember_setEntry nofun) (noLongerList_of_contexts rfl) rfl
  | allocate cls line mask data hi hmode =>
    exact memberBounds_of hI (noNewMember_setEntry (e := .pending _) nofun) (noLongerList_of_contexts rfl) rfl
  | overlay mask data hc hmem hi =>
    exact memberBounds_of hI (noNewMember_setEntry (e := .member _) fun _ => by rw [hi]; rfl)
      (noLongerList_of_held (held_setCtx (by exact (congrArg held hc).symm))) rfl
  | @join c o i line mask data hc hi hmode hline hquota hspace =>
    obtain ⟨hlists, -⟩ := hI
    refine ⟨fun d q hd => ?_, ?_⟩
    · rw [ctx_allocateMember] at hd
      split_ifs at hd with hdc
      · cases hd
        simpa using hquota
      · exact hlists d q hd
    · have hcount := memberEntries_setEntry hi { line := line, data := data, mask := mask, port := o.port }
      have hnew : memberEntries (allocateMember c o i line mask data s) = memberEntries s + 1 := hcount
      have hconfig : (allocateMember c o i line mask data s).config = s.config := by simp
      rw [hnew, hconfig]
      omega
  | @abort c o reason hc =>
    refine memberBounds_of hI (noNewMember_release (l := o.members) fun i => ?_) (fun d q l hd => ?_) (by simp)
    · rw [BundleTable.entry_abortCtx, hc, BundleTable.membersOf]
    · rw [BundleTable.ctx_abortCtx] at hd
      split_ifs at hd with hdc
      · rw [hdc, hc] at hd
        exact nomatch hd
      · exact .inl hd
  | bOpen hmode hlane hc =>
    refine memberBounds_of (s := s) hI (noNewMember_of_entries rfl) (fun d q l hd => ?_) rfl
    rw [ctx_setCtx] at hd
    split_ifs at hd
    · obtain ⟨o, ho, -, rfl⟩ := held_eq_some.mp hd
      cases ho
      exact .inr rfl
    · exact .inl hd
  | @bClose c o hc =>
    refine memberBounds_of hI (fun i hi => ?_)
      (noLongerList_freeCtx (u := commitMembers o.members s) c rfl rfl) (by simp)
    rw [entry_of_entries (by simp : (freeCtx c (commitMembers o.members s)).entries = (commitMembers o.members s).entries),
      entry_commitMembers] at hi
    split_ifs at hi
    · rw [isMember_commitMember] at hi
      cases hi
    · exact hi
  | @drop c hc =>
    exact memberBounds_of hI (noNewMember_of_entries (by simp)) (noLongerList_freeCtx c rfl rfl) (by simp)
  | @cancel c o hc =>
    exact memberBounds_of hI (noNewMember_release (BundleTable.entry_cancelled s c o))
      (noLongerList_freeCtx (u := releaseEntries o.members s) c rfl (BundleTable.contexts_cancelled s c o)) (by simp)

/-- The events keep the bounds, where the lists are exact. -/
theorem conserved_memberBounds : Conserved EntriesExact MemberBounds where
  blocks hst hI := memberBounds_of hI (noNewMember_of_entries hst.tables.entries)
    (noLongerList_of_contexts hst.tables.contexts) hst.config
  move _ := memberBounds_move
  issueWrite {s t i c} _ hI _ _ hc := by
    rw [issueEntry_of_pending hc]
    exact memberBounds_of hI (noNewMember_setEntry (e := .issued c t) nofun) (noLongerList_of_contexts rfl) rfl
  issueRead {s t k r} _ hI _ hr := by
    rw [issueSlot_of_ready hr]
    refine memberBounds_of (s := s) hI (fun i hi => ?_) (noLongerList_of_contexts rfl) rfl
    have hentry := congrArg Entry.isMember (entry_unblock [k] (s.setSlot k (.issued r t false)) i)
    rw [isMember_mapCommitted] at hentry
    exact hentry.symm.trans hi
  retire {s t i n c t'} e _ hI _ hi := by
    have hentries := entries_endWrite (s := s.setAccess t e.recordAfter) hi e
    refine memberBounds_of (s := s) hI (fun j hj => ?_) (noLongerList_of_contexts (by simp)) (by simp)
    rw [State.entry, hentries] at hj
    exact noNewMember_setEntry (s := s) (e := .free) nofun j hj
  answer {s t k n r t' b} _ _ hI _ _ :=
    memberBounds_of (s := s) hI (noNewMember_of_entries rfl) (noLongerList_of_contexts rfl) rfl
  records {s t} _ hI ht := memberBounds_of (s := s) hI (noNewMember_of_entries ht.frame.tables.entries)
    (noLongerList_of_contexts ht.frame.tables.contexts) ht.frame.config
  advance {s} _ hI := by
    refine memberBounds_of hI (fun i hi => ?_) (noLongerList_of_held fun c => by rw [ctx_advance, held_tick]) (by simp)
    rwa [entry_advance, isMember_tick] at hi
  portReset {s} n _ hI := by
    refine memberBounds_of hI (fun i hi => ?_) (fun c p l hc => ?_) (by simp)
    · obtain ⟨m, hm⟩ := isMember_iff.mp hi
      have hk : kind ((portResetNow n s).entry i) = some (some (m.port, m.line)) := by rw [hm]; rfl
      rw [entry_portReset, kind_dropReply, kind_mapCommitted] at hk
      split_ifs at hk
      · cases hk
      · obtain ⟨m', hm', -⟩ := kind_eq_member.mp hk
        exact isMember_iff.mpr ⟨m', hm'⟩
    · rw [ctx_portReset] at hc
      split_ifs at hc
      · cases hc
      · exact .inl hc
  reset := by
    refine ⟨fun c o hc => ?_, by decide⟩
    rw [show State.reset.ctx c = .free from Table.get_replicate _ c] at hc
    cases hc
  command _ hI hc ht := by
    subst ht
    obtain ⟨hconfig, -, -⟩ := frame_of_mode_command hc
    exact memberBounds_of_tables hI (sameTables_of_mode_command hc rfl) (by rw [hconfig])
      (by rw [hconfig])
  config i v hE hI := memberBounds_config hE hI i v
  window w part v _ hI := by
    have hconfig := config_writeWindow w part v
    exact memberBounds_of_tables hI (sameTables_writeWindow w part v _) (by rw [hconfig]) (by rw [hconfig])

end Steps

/-- Settles O56: a member joins below both bounds, and the two items change where no member is held. -/
theorem stepKeepsMemberBounds : Obligations.StepKeepsMemberBounds := fun _ _ hE hI hstep =>
  ((conserved_memberBounds.kept kept_entriesExact).step ⟨hE, hI⟩ hstep).2

end Sys2Proof.Bounds
end

section
/-! Configuration, windows and pressure (R14, R15, R140, R141): the checks of the stores keep items and windows in range,
and every change of the occupancy or of the marks evaluates the flag. -/

namespace Sys2Proof.Marks

open Sys2Proof.Machine Sys2Proof.Safety Sys2Proof.Events Sys2Proof.ConfigObjects

/-! ## Occupancy under the events -/

section Occupancy

variable {s t : State} {p : Port} {tag : ReqTag}

theorem occupancy_setEntry_of_used {i : EntryIx} {e : Entry} (hi : (s.entry i).isFree = false) (he : e.isFree = false) :
    occupancy (s.setEntry i e) = occupancy s := by
  simpa [hi, he] using occ_setEntry s i e

theorem occupancy_advance (s : State) : occupancy (advanceTimers s) = occupancy s :=
  occ_congr fun i => by rw [entry_advance, tick_isFree]

theorem occupancy_commitMembers (l : List EntryIx) (s : State) : occupancy (commitMembers l s) = occupancy s :=
  occ_congr fun i => by
    rw [entry_commitMembers]
    split_ifs
    · exact commitMember_isFree s _
    · rfl

theorem occupancy_unblock (g : List SlotIx) (s : State) : occupancy (unblock g s) = occupancy s :=
  occ_congr fun i => by rw [entry_unblock, mapCommitted_isFree]

theorem occupancy_issueEntry {i : EntryIx} {c : Committed} (hc : s.entry i = .pending c) (a : AccessTag) :
    occupancy (issueEntry i a s) = occupancy s := by
  rw [issueEntry_of_pending hc, occ_eq (s := s.setEntry i (.issued c a)) (by simp)]
  exact occupancy_setEntry_of_used (by rw [hc]; rfl) rfl

theorem occupancy_issueSlot {k : SlotIx} {r : ReadRec} (hk : s.slot k = .ready r) (a : AccessTag) :
    occupancy (issueSlot k a s) = occupancy s := by
  rw [issueSlot_of_ready hk]
  exact occupancy_unblock _ _

end Occupancy

/-! ## Items and windows in range -/

section Legal

variable {s t : State} {p : Port} {tag : ReqTag}

/-- An event that leaves items and windows. -/
theorem configLegal_congr (h : ConfigLegal s) (hconfig : t.config = s.config) (hwindows : t.windows = s.windows) :
    ConfigLegal t where
  quota := hconfig ▸ h.quota
  reserve := hconfig ▸ h.reserve
  high := hconfig ▸ h.high
  low := hconfig ▸ h.low
  marks := hconfig ▸ h.marks
  age := hconfig ▸ h.age
  idle := hconfig ▸ h.idle
  timeout := hconfig ▸ h.timeout
  readRun := hconfig ▸ h.readRun
  tbdiv := hconfig ▸ h.tbdiv
  windows := hwindows ▸ h.windows

theorem config_of_move {b : Bool} (h : Move s p tag b t) : t.config = s.config := by cases h <;> simp

theorem windows_of_move {b : Bool} (h : Move s p tag b t) : t.windows = s.windows := by cases h <;> simp

/-- A store of an item is in the item's range (R173). -/
theorem configLegal_writeConfig (h : ConfigLegal s) (i : ConfigItem) (v : Word) : ConfigLegal (writeConfig i v s).1 := by
  cases i with
  | bundleQuota =>
    refine interlocked_cases h fun _ => storeIf_cases h fun hok => ?_
    exact { h with quota := (fits_and_inRange_iff (by decide)).mp hok }
  | reserve =>
    refine interlocked_cases h fun _ => storeIf_cases h fun hok => ?_
    exact { h with reserve := (fits_and_inRange_iff (by decide)).mp hok }
  | highMark =>
    refine storeIf_cases h fun hok => ?_
    obtain ⟨hlo, hhi, hmarks⟩ := (PostingBuffer.highMark_check_iff s v).mp hok
    exact { h with high := ⟨hlo, hhi⟩, marks := hmarks }
  | lowMark =>
    refine storeIf_cases h fun hok => ?_
    obtain ⟨hhi, hmarks⟩ := (PostingBuffer.lowMark_check_iff s v).mp hok
    exact { h with low := hhi, marks := hmarks }
  | ageLimit =>
    refine storeIf_cases h fun hok => ?_
    exact { h with age := ((fits_and_inRange_iff (by decide)).mp hok).2 }
  | idleLimit =>
    refine storeIf_cases h fun hok => ?_
    exact { h with idle := (fits_and_inRange_iff (by decide)).mp hok }
  | memTimeout =>
    refine storeIf_cases h fun hok => ?_
    exact { h with timeout := (fits_and_inRange_iff (by decide)).mp hok }
  | readRunLimit =>
    refine storeIf_cases h fun hok => ?_
    exact { h with readRun := (fits_and_inRange_iff (by decide)).mp hok }
  | portGroup => exact storeIf_cases h fun _ => { h with }
  | tbdiv =>
    simp only [writeConfig, writeTbdiv]
    split_ifs
    · refine storeIf_cases h fun hok => ?_
      exact { h with tbdiv := (fits_and_inRange_iff (by decide)).mp hok }
    · exact h
  | defaultClass =>
    refine interlocked_cases h fun _ => ?_
    split
    · exact { h with }
    · exact h
  | alertMask => exact storeIf_cases h fun _ => { h with }

/-- A window that is replaced by a legal one leaves every window legal. -/
theorem configLegal_setWindow (h : ConfigLegal s) {w : Fin 8} {x : Window} (hx : WindowLegal x) :
    ConfigLegal (s.setWindow w x) :=
  { h with
    windows := fun v => by
      rw [State.setWindow, Table.get_set]
      split_ifs
      · exact hx
      · exact h.windows v }

/-- A stored range leaves a window disabled or aligned (R141). -/
theorem configLegal_storeRange (h : ConfigLegal s) {w : Fin 8} {base : Addr} {exponent : Nat} {formOk : Bool}
    (hsize : formOk = true → 12 ≤ exponent ∧ exponent ≤ 40) : ConfigLegal (storeRange s w base exponent formOk).1 := by
  refine storeIf_cases h fun hok => configLegal_setWindow h ?_
  simp only [Bool.and_eq_true, Bool.or_eq_true, Bool.not_eq_true'] at hok
  obtain ⟨hform, hbase⟩ := hok
  obtain ⟨hlo, hhi⟩ := hsize hform
  refine ⟨hlo, hhi, fun henabled => ?_⟩
  obtain hdisabled | haligned := hbase
  · exact nomatch hdisabled.symm.trans henabled
  · exact aligned_iff.mp haligned

theorem configLegal_writeWindow (h : ConfigLegal s) (w : Fin 8) (part : WindowPart) (v : Word) :
    ConfigLegal (writeWindow w part v s).1 := by
  refine interlocked_cases h fun _ => ?_
  obtain ⟨hlo, hhi, hbase⟩ := h.windows w
  cases part with
  | baseLow => exact configLegal_storeRange h fun _ => ⟨hlo, hhi⟩
  | baseHighSize =>
    refine configLegal_storeRange h fun hform => ?_
    simp only [Bool.and_eq_true, decide_eq_true_eq] at hform
    obtain ⟨⟨-, hsize⟩, hsize'⟩ := hform
    exact ⟨hsize, hsize'⟩
  | classEnable =>
    simp only [writeClassEnable]
    split
    · exact h
    · refine storeIf_cases h fun hok => configLegal_setWindow h ⟨hlo, hhi, fun henabled => ?_⟩
      simp only [Bool.and_eq_true, Bool.or_eq_true, Bool.not_eq_true'] at hok
      obtain ⟨-, hdisabled | haligned⟩ := hok
      · exact nomatch hdisabled.symm.trans henabled
      · exact aligned_iff.mp haligned

theorem configLegal_reset : ConfigLegal State.reset := by
  constructor <;> try decide
  intro w
  rw [show State.reset.windows.get w = Window.reset from Table.get_replicate _ w]
  exact ⟨by decide, by decide, nofun⟩

/-- The events keep items and windows in range. -/
theorem conserved_configLegal : Conserved (fun _ => True) ConfigLegal where
  blocks hst h := configLegal_congr h hst.config hst.windows
  move _ h hm := configLegal_congr h (config_of_move hm) (windows_of_move hm)
  issueWrite _ h _ _ _ := configLegal_congr h (by simp) (by simp)
  issueRead _ h _ _ := configLegal_congr h (by simp) (by simp)
  retire _ _ h _ _ := configLegal_congr h (by simp) (by simp)
  answer _ _ h _ _ := configLegal_congr h (by simp) (by simp)
  records _ h ht := configLegal_congr h ht.frame.config ht.frame.windows
  advance _ h := configLegal_congr h (by simp) (by simp)
  portReset n _ h := configLegal_congr h (by simp) (by simp)
  reset := configLegal_reset
  command _ h hc ht := by
    subst ht
    obtain ⟨hconfig, hwindows, -⟩ := frame_of_mode_command hc
    exact configLegal_congr h hconfig hwindows
  config i v _ h := configLegal_writeConfig h i v
  window w part v _ h := configLegal_writeWindow h w part v

end Legal

/-! ## The pressure flag -/

section Pressure

variable {s t : State} {p : Port} {tag : ReqTag}

/-- An event that leaves the marks, the occupancy and the flag. -/
theorem pressureAgrees_congr (h : PressureAgrees s) (hconfig : t.config = s.config) (hocc : occupancy t = occupancy s)
    (hpressure : t.pressure = s.pressure) : PressureAgrees t := by
  rw [PressureAgrees, hconfig, hocc, hpressure]
  exact h

/-- After an evaluation the flag agrees, since the marks do not cross (R14, R15). -/
theorem pressureAgrees_of_pressureAt {u : State} (hmarks : u.config.lowMark < u.config.highMark)
    (hconfig : t.config = u.config) (hpressure : t.pressure = pressureAt u (occupancy t)) : PressureAgrees t := by
  rw [PressureAgrees, hconfig, hpressure, pressureAt]
  refine ⟨fun hhigh => if_pos hhigh, fun hlow => ?_⟩
  rw [if_neg (by omega), if_pos hlow]

theorem pressureAgrees_evalPressure (hmarks : s.config.lowMark < s.config.highMark) :
    PressureAgrees (evalPressure s) :=
  pressureAgrees_of_pressureAt (u := s) hmarks rfl rfl

theorem pressureAgrees_afterRelease (hmarks : s.config.lowMark < s.config.highMark) :
    PressureAgrees (afterRelease s) :=
  pressureAgrees_of_pressureAt hmarks (by simp) (afterRelease_pressure s s rfl rfl)

/-- A move of an acceptance changes no occupancy, or evaluates the flag. -/
theorem pressureAgrees_move {b : Bool} (hE : ConfigLegal s) (h : PressureAgrees s) (hm : Move s p tag b t) :
    PressureAgrees t := by
  cases hm with
  | answer => exact h
  | slot | fence | bOpen => exact pressureAgrees_congr (s := s) h rfl rfl rfl
  | combine mask data hi | overlay mask data hc hmem hi =>
    exact pressureAgrees_congr (s := s) h rfl (occupancy_setEntry_of_used (by rw [hi]; rfl) rfl) rfl
  | allocate => exact pressureAgrees_evalPressure hE.marks
  | join => exact pressureAgrees_evalPressure hE.marks
  | abort reason hc =>
    rw [BundleTable.abortCtx_of_open hc]
    exact pressureAgrees_afterRelease hE.marks
  | @bClose c o hc =>
    refine pressureAgrees_congr (s := s) h (by simp) ?_ (by simp)
    rw [← occupancy_commitMembers o.members s]
    exact occ_eq (by simp)
  | drop hc => exact pressureAgrees_congr (s := s) h (by simp) (occ_eq (by simp)) (by simp)
  | @cancel c o hc =>
    refine pressureAgrees_afterRelease ?_
    rw [show (freeCtx c (releaseEntries o.members s)).config = s.config by simp]
    exact hE.marks

/-- A store of a mark evaluates the flag against it (R15). -/
theorem pressureAgrees_writeConfig (h : PressureAgrees s) (i : ConfigItem) (v : Word) :
    PressureAgrees (writeConfig i v s).1 := by
  have hkeep : ∀ {b : Bool} {t : State}, PressureAgrees t → PressureAgrees (storeIf b s t).1 := fun ht =>
    storeIf_cases h fun _ => ht
  cases i with
  | bundleQuota | reserve => exact interlocked_cases h fun _ => hkeep h
  | highMark =>
    refine storeIf_cases h fun hok => pressureAgrees_evalPressure ?_
    exact ((PostingBuffer.highMark_check_iff s v).mp hok).2.2
  | lowMark =>
    refine storeIf_cases h fun hok => pressureAgrees_evalPressure ?_
    exact ((PostingBuffer.lowMark_check_iff s v).mp hok).2
  | tbdiv =>
    simp only [writeConfig, writeTbdiv]
    split_ifs
    · exact hkeep h
    · exact h
  | defaultClass =>
    refine interlocked_cases h fun _ => ?_
    split <;> exact h
  | _ => exact hkeep h

/-- The events keep the flag agreeing, where the marks do not cross. -/
theorem conserved_pressureAgrees : Conserved ConfigLegal PressureAgrees where
  blocks hst h := pressureAgrees_congr h hst.config (occ_eq hst.tables.entries) hst.pressure
  move := pressureAgrees_move
  issueWrite {s t i c} _ h _ _ hc :=
    pressureAgrees_congr (s := s) h (by simp) (occupancy_issueEntry hc t) (by simp)
  issueRead {s t k r} _ h _ hr :=
    pressureAgrees_congr (s := s) h (by simp) (occupancy_issueSlot hr t) (by simp)
  retire {s t i n c t'} e hE _ _ hi := by
    rw [endWrite_of_issued (s := s.setAccess t e.recordAfter) hi]
    refine pressureAgrees_afterRelease ?_
    have hconfig : (answerEmptied (leaveFences i e.failed
        (dropEntry i (reportEnd c e (s.setAccess t e.recordAfter))))).config = s.config := by simp
    rw [hconfig]
    exact hE.marks
  answer {s t k n r t' b} _ _ h _ _ := pressureAgrees_congr (s := s) h rfl rfl rfl
  records {s t} _ h ht := pressureAgrees_congr (s := s) h ht.frame.config (occ_eq ht.frame.tables.entries)
    ht.frame.pressure
  advance _ h := pressureAgrees_congr h (by simp) (occupancy_advance _) (by simp)
  portReset {s} n hE _ := by
    refine pressureAgrees_of_pressureAt (u := s) hE.marks (by simp) ?_
    exact afterRelease_pressure s _ (by simp) (by simp)
  reset := ⟨fun h => absurd h (by decide), fun _ => rfl⟩
  command {s t c} _ h hc ht := by
    subst ht
    obtain ⟨hconfig, -, hpressure⟩ := frame_of_mode_command hc
    exact pressureAgrees_congr h hconfig (occ_eq (sameTables_of_mode_command hc rfl).entries) hpressure
  config i v _ h := pressureAgrees_writeConfig h i v
  window {s} w part v _ h := by
    rw [writeWindow_eq]
    exact pressureAgrees_congr (s := s) h rfl rfl rfl

end Pressure

/-- Settles O57: the stores are checked, and the flag is evaluated wherever occupancy or a mark changes. -/
theorem stepKeepsConfigurationAndPressure : Obligations.StepKeepsConfigurationAndPressure := fun _ _ hC hP hstep =>
  (conserved_pressureAgrees.kept conserved_configLegal.kept_alone).step ⟨hC, hP⟩ hstep

end Sys2Proof.Marks
end

section
/-! The mode against the buffer and the contexts (R65, R149, R151): a write is allocated neither in QUIESCING nor in
QUIESCED, every fall of the occupancy asks whether QUIESCED is reached, and a context opens in RUN alone. -/

namespace Sys2Proof.ModeLaw

open Sys2Proof.Machine Sys2Proof.Safety Sys2Proof.Events Sys2Proof.ExactLists Sys2Proof.Marks

/-- No context that is not OPEN becomes OPEN. -/
def NoneOpened (s t : State) : Prop := ∀ c, held (s.ctx c) = none → held (t.ctx c) = none

section Laws

variable {s t u : State} {p : Port} {tag : ReqTag}

theorem held_abortedFor (reason : AbortReason) (x : Ctx) : held (BundleTable.abortedFor reason x) = none := by
  cases x <;> rfl

theorem not_open_of_closed (h : ∀ c o, s.ctx c ≠ .opened o) (c : CtxIx) : (s.ctx c).isOpen = false := by
  refine Bool.eq_false_iff.mpr fun hopen => ?_
  obtain ⟨o, ho⟩ := isOpen_iff.mp hopen
  exact h c o ho

theorem noneOpened_of_contexts (h : t.contexts = s.contexts) : NoneOpened s t := fun c hc => by
  rwa [State.ctx, h]

theorem noneOpened_setCtx {c : CtxIx} {x : Ctx} (hx : held (s.ctx c) = none → held x = none) :
    NoneOpened s (s.setCtx c x) := fun d hd => by
  rw [ctx_setCtx]
  split_ifs with h
  · exact hx (h ▸ hd)
  · exact hd

theorem noneOpened_freeCtx (c : CtxIx) (s : State) : NoneOpened s (freeCtx c s) := fun d hd => by
  rw [held_freeCtx, hd, ite_self]

theorem not_open_of_noneOpened (h : ModeAgrees s) (hnone : NoneOpened s t) (hmode : s.mode = .pass) (c : CtxIx) :
    (t.ctx c).isOpen = false :=
  held_eq_none.mp (hnone c (held_eq_none.mpr (h.pass hmode c)))

/-- An event that leaves mode and occupancy, and opens no context. -/
theorem modeAgrees_congr (h : ModeAgrees s) (hmode : t.mode = s.mode) (hocc : occupancy t = occupancy s)
    (hnone : NoneOpened s t) : ModeAgrees t where
  quiesced hm := hocc.trans (h.quiesced (hmode.symm.trans hm))
  quiescing hm := hocc ▸ h.quiescing (hmode.symm.trans hm)
  pass hm := not_open_of_noneOpened h hnone (hmode.symm.trans hm)

theorem modeAgrees_of_tables (h : ModeAgrees s) (hst : SameTables s t) (hmode : t.mode = s.mode) : ModeAgrees t :=
  modeAgrees_congr h hmode (occ_eq hst.entries) (noneOpened_of_contexts hst.contexts)

/-- An event that fills an entry, outside QUIESCING and QUIESCED. -/
theorem modeAgrees_of_not_stopped (h : ModeAgrees s) (hmode : t.mode = s.mode)
    (hstopped : ¬ (s.mode = .quiescing ∨ s.mode = .quiesced)) (hnone : NoneOpened s t) : ModeAgrees t where
  quiesced hm := absurd (.inr (hmode.symm.trans hm)) hstopped
  quiescing hm := absurd (.inl (hmode.symm.trans hm)) hstopped
  pass hm := not_open_of_noneOpened h hnone (hmode.symm.trans hm)

/-- In RUN nothing is asked. -/
theorem modeAgrees_of_run (h : s.mode = .run) : ModeAgrees s where
  quiesced hm := nomatch h.symm.trans hm
  quiescing hm := nomatch h.symm.trans hm
  pass hm := nomatch h.symm.trans hm

/-- An event that asks whether QUIESCED is reached, and after which no more entries are in use (R149). -/
theorem modeAgrees_of_modeFollows (h : ModeAgrees s) (hf : ModeFollows s t) (hocc : occupancy t ≤ occupancy s)
    (hnone : NoneOpened s t) : ModeAgrees t := by
  obtain ⟨hreach, hstay⟩ := hf
  by_cases hr : s.mode = .quiescing ∧ occupancy t = 0
  · obtain ⟨hquiescing, hempty⟩ := hr
    obtain ⟨hm, -⟩ := hreach hquiescing hempty
    exact ⟨fun _ => hempty, fun hq => (nomatch hm.symm.trans hq), fun hq => (nomatch hm.symm.trans hq)⟩
  · obtain ⟨hm, -⟩ := hstay hr
    refine ⟨fun hq => ?_, fun hq hempty => hr ⟨hm.symm.trans hq, hempty⟩,
      fun hq => not_open_of_noneOpened h hnone (hm.symm.trans hq)⟩
    have hzero := h.quiesced (hm.symm.trans hq)
    omega

/-- A move of an acceptance keeps the mode agreeing. -/
theorem modeAgrees_move {b : Bool} (h : ModeAgrees s) (hm : Move s p tag b t) : ModeAgrees t := by
  cases hm with
  | answer => exact h
  | slot | fence => exact modeAgrees_congr (s := s) h rfl rfl fun _ => id
  | combine mask data hi =>
    exact modeAgrees_congr (s := s) h rfl (occupancy_setEntry_of_used (by rw [hi]; rfl) rfl) fun _ => id
  | allocate cls line mask data hi hmode => exact modeAgrees_of_not_stopped (s := s) h rfl hmode fun _ => id
  | overlay mask data hc hmem hi =>
    refine modeAgrees_congr (s := s) h rfl (occupancy_setEntry_of_used (by rw [hi]; rfl) rfl) ?_
    exact noneOpened_setCtx (s := s) fun hnone => by rw [hc] at hnone; cases hnone
  | join mask data hc hi hmode =>
    refine modeAgrees_of_not_stopped (s := s) h rfl hmode ?_
    exact noneOpened_setCtx (s := s) fun hnone => by rw [hc] at hnone; cases hnone
  | abort reason hc =>
    have hreleased := BundleTable.released_abortCtx hc reason
    refine modeAgrees_of_modeFollows h hreleased.mode hreleased.occ fun d hd => ?_
    rw [BundleTable.ctx_abortCtx]
    split_ifs
    · exact held_abortedFor reason _
    · exact hd
  | bOpen hmode => exact modeAgrees_of_run hmode
  | @bClose c o hc =>
    refine modeAgrees_congr (s := s) h (by simp) ?_ (noneOpened_freeCtx c (commitMembers o.members s))
    rw [← occupancy_commitMembers o.members s]
    exact occ_eq (by simp)
  | drop hc => exact modeAgrees_congr (s := s) h (by simp) (occ_eq (by simp)) (noneOpened_freeCtx _ s)
  | @cancel c o hc =>
    refine modeAgrees_of_modeFollows h (afterRelease_modeFollows s _ (by simp) (by simp)) ?_ fun d hd => ?_
    · exact (occ_eq (by simp)).trans_le (BundleTable.occupancy_releaseEntries_le o.members s)
    · rw [State.ctx, (afterRelease_frame _).2.2.2.2.2.2.1]
      exact noneOpened_freeCtx c (releaseEntries o.members s) d hd

/-- A retired entry leaves the occupancy no higher. -/
theorem modeAgrees_endWrite (h : ModeAgrees s) {i : EntryIx} {c : Committed} {a : AccessTag} (hi : s.entry i = .issued c a)
    (e : AccessEnd) : ModeAgrees (endWrite i e s) := by
  have hocc : occupancy (endWrite i e s) ≤ occupancy s := occ_mono fun j hj => by
    rw [entry_of_entries (s := s.setEntry i .free) (entries_endWrite hi e), entry_setEntry]
    split_ifs
    · rfl
    · exact hj
  have hcontexts : (endWrite i e s).contexts = s.contexts := by simp
  rw [endWrite_of_issued hi] at hocc hcontexts ⊢
  exact modeAgrees_of_modeFollows h (afterRelease_modeFollows s _ (by simp) (by simp [dropEntry])) hocc
    (noneOpened_of_contexts hcontexts)

theorem modeAgrees_portReset (h : ModeAgrees s) (n : Port) : ModeAgrees (portResetNow n s) := by
  refine modeAgrees_of_modeFollows h (afterRelease_modeFollows s _ (by simp) (by simp)) (occ_mono fun i hi => ?_)
    fun c hc => ?_
  · rw [entry_portReset, dropReply_isFree, mapCommitted_isFree]
    split_ifs
    · rfl
    · exact hi
  · rw [ctx_portReset]
    split_ifs
    · rfl
    · exact hc

/-- A mode command moves the mode where the buffer and the contexts allow it (R147 to R151). -/
theorem modeAgrees_takeCommand (h : ModeAgrees s) {c : LinkCommand}
    (hc : c = .enable ∨ c = .quiesce ∨ c = .resume ∨ c = .disable) : ModeAgrees (takeCommand c s).1 := by
  obtain rfl | rfl | rfl | rfl := hc
  · simp only [takeCommand, takeEnable]
    split_ifs
    · exact modeAgrees_of_run rfl
    · exact h
  · by_cases hrun : s.mode = .run
    · by_cases hocc : occupancy s = 0
      · rw [takeCommand, Modes.takeQuiesce_of_empty hrun hocc]
        exact ⟨fun _ => hocc, nofun, nofun⟩
      · rw [takeCommand, Modes.takeQuiesce_of_occupied hrun hocc]
        exact ⟨nofun, fun _ => hocc, nofun⟩
    · rw [takeCommand, Modes.takeQuiesce_refused hrun]
      exact h
  · simp only [takeCommand, takeResume]
    split_ifs
    · exact modeAgrees_of_run rfl
    · exact h
  · simp only [takeCommand, takeDisable]
    split_ifs with hok
    · obtain ⟨-, hclosed⟩ := hok
      exact ⟨nofun, nofun, fun _ c => not_open_of_closed (anyOpen_iff.mp hclosed) c⟩
    · exact h

end Laws

/-- The events keep the mode agreeing with the buffer and the contexts. -/
theorem conserved_modeAgrees : Conserved (fun _ => True) ModeAgrees where
  blocks hst h := modeAgrees_of_tables h hst.tables hst.mode
  move _ := modeAgrees_move
  issueWrite {s t i c} _ h _ _ hc :=
    modeAgrees_congr (s := s) h (by simp) (occupancy_issueEntry hc t) (noneOpened_of_contexts (by simp))
  issueRead {s t k r} _ h _ hr :=
    modeAgrees_congr (s := s) h (by simp) (occupancy_issueSlot hr t) (noneOpened_of_contexts (by simp))
  retire {s t i n c t'} e _ h _ hi :=
    modeAgrees_endWrite (s := s.setAccess t e.recordAfter) (modeAgrees_congr (s := s) h rfl rfl fun _ => id) hi e
  answer {s t k n r t' b} _ _ h _ _ := modeAgrees_congr (s := s) h rfl rfl fun _ => id
  records {s t} _ h ht := modeAgrees_congr (s := s) h ht.frame.mode (occ_eq ht.frame.tables.entries)
    (noneOpened_of_contexts ht.frame.tables.contexts)
  advance {s} _ h := modeAgrees_congr (s := s) h (by simp) (occupancy_advance s) fun c hc => by
    rwa [ctx_advance, held_tick]
  portReset n _ h := modeAgrees_portReset h n
  reset := ⟨nofun, nofun, fun _ c => by rw [State.ctx, State.reset, Table.get_replicate]; rfl⟩
  command _ h hc ht := ht ▸ modeAgrees_takeCommand h hc
  config i v _ h := modeAgrees_of_tables h (sameTables_writeConfig i v _) (mode_writeConfig i v _)
  window {s} w part v _ h := by
    rw [writeWindow_eq]
    exact modeAgrees_congr (s := s) h rfl rfl fun _ => id

/-- Settles O58: no write is taken into a stopped buffer, a fall to 0 is the move to QUIESCED, and DISABLE finds no OPEN
context. -/
theorem stepKeepsModeAgrees : Obligations.StepKeepsModeAgrees := fun _ _ h hstep =>
  conserved_modeAgrees.kept_alone.step h hstep

end Sys2Proof.ModeLaw
end

section
/-! Holds and wait sets (R8, R34, R42, R52, R85, R91): a blocked-by set loses a slot as the slot stops covering, a
waits-for set loses an entry as the entry is issued, and a wait set loses an entry as the entry retires. -/

namespace Sys2Proof.Holds

open Sys2Proof.Machine Sys2Proof.Safety Sys2Proof.Events Sys2Proof.ExactLists Sys2Proof.IssueRuns

/-! ## What is asked of one entry, one slot and one record -/

/-- The state of a committed entry: PENDING or not. -/
def phase (e : Entry) : Option Bool := e.committed?.map fun _ => e.isPending

/-- The blocked-by set of an entry names slots that cover its line, and none once it is ISSUED. -/
def EntryLive (slot : SlotIx → Slot) : Entry → Prop
  | .free | .member _ => True
  | .pending c => ∀ k ∈ c.blockedBy, (slot k).covers c.line = true
  | .issued c _ => c.blockedBy = []

/-- A WAITING slot waits for PENDING entries, at least one; another slot waits for none. -/
def SlotLive (entry : EntryIx → Entry) : Slot → Prop
  | .free => True
  | .waiting r => ∃ w, r.waitsFor = some w ∧ w ≠ [] ∧ ∀ i ∈ w, phase (entry i) = some true
  | .ready r | .issued r _ _ => r.waitsFor.getD [] = []

/-- A WAITING record waits for committed entries, at least one, each once. -/
def FenceLive (entry : EntryIx → Entry) : FenceRec → Prop
  | .free => True
  | .waiting w => w.waitSet ≠ [] ∧ w.waitSet.Nodup ∧ ∀ i ∈ w.waitSet, (phase (entry i)).isSome = true

section OneRecord

variable {slot slot' : SlotIx → Slot} {entry entry' : EntryIx → Entry} {e : Entry} {x : Slot} {f : FenceRec}

theorem phase_eq_pending : phase e = some true ↔ e.isPending = true := by
  cases e <;> simp [phase, Entry.committed?, Entry.isPending]

theorem isSome_phase (e : Entry) : (phase e).isSome = e.committed?.isSome := by
  cases e <;> rfl

theorem isSome_committed_of_committedWith {g : Committed → Bool} (h : e.committedWith g = true) :
    e.committed?.isSome = true := by
  obtain ⟨c, hc, -⟩ := (Option.any_eq_true _ _).mp h
  rw [hc, Option.isSome_some]

theorem isSome_phase_iff : (phase e).isSome = true ↔ kind e = some none := by
  rw [isSome_phase, kind_eq_committed]

@[simp] theorem phase_mapCommitted (g : Committed → Committed) (e : Entry) : phase (e.mapCommitted g) = phase e := by
  cases e <;> rfl

@[simp] theorem phase_dropReply (n : Port) (e : Entry) : phase (e.dropReply n) = phase e := phase_mapCommitted _ e

@[simp] theorem phase_tick (e : Entry) : phase e.tick = phase e := by cases e <;> rfl

theorem entryLive_congr (h : EntryLive slot e) (hcovers : ∀ k line, (slot k).covers line = true →
    (slot' k).covers line = true) : EntryLive slot' e := by
  cases e with
  | free | member => trivial
  | pending c => exact fun k hk => hcovers k c.line (h k hk)
  | issued c t => exact h

/-- Slots that stop covering leave the blocked-by sets (R8). -/
theorem entryLive_unblock (h : EntryLive slot e) (gone : List SlotIx)
    (hcovers : ∀ k line, k ∉ gone → (slot k).covers line = true → (slot' k).covers line = true) :
    EntryLive slot' (e.mapCommitted fun c => { c with blockedBy := c.blockedBy.filter fun k => !gone.contains k }) := by
  cases e with
  | free | member => trivial
  | pending c =>
    intro k hk
    obtain ⟨hmem, hgone⟩ := List.mem_filter.mp hk
    exact hcovers k c.line (by simpa using hgone) (h k hmem)
  | issued c t =>
    change c.blockedBy = [] at h
    change c.blockedBy.filter _ = []
    rw [h, List.filter_nil]

theorem entryLive_dropReply (h : EntryLive slot e) (n : Port) : EntryLive slot (e.dropReply n) := by
  cases e with
  | free | member => trivial
  | pending c =>
    simp only [Entry.dropReply, Entry.mapCommitted]
    split_ifs <;> exact h
  | issued c t =>
    simp only [Entry.dropReply, Entry.mapCommitted]
    split_ifs <;> exact h

theorem entryLive_tick (h : EntryLive slot e) : EntryLive slot e.tick := by cases e <;> exact h

theorem slotLive_congr (h : SlotLive entry x)
    (hphase : ∀ i, phase (entry i) = some true → phase (entry' i) = some true) : SlotLive entry' x := by
  cases x with
  | free => trivial
  | waiting r =>
    obtain ⟨w, hw, hne, hpending⟩ := h
    exact ⟨w, hw, hne, fun i hi => hphase i (hpending i hi)⟩
  | ready r => exact h
  | issued r t o => exact h

/-- An issued entry leaves the waits-for sets, and a slot whose set becomes empty is READY (R52). -/
theorem slotLive_dropWait (h : SlotLive entry x) (i : EntryIx)
    (hphase : ∀ j, j ≠ i → phase (entry j) = some true → phase (entry' j) = some true) :
    SlotLive entry' (x.dropWait i) := by
  have hnone : ∀ r : ReadRec, r.waitsFor.getD [] = [] → (r.dropWait i).waitsFor.getD [] = [] := by
    intro r hr
    cases hw : r.waitsFor with
    | none => simp [ReadRec.dropWait, hw]
    | some w =>
      rw [hw] at hr
      obtain rfl : w = [] := hr
      simp [ReadRec.dropWait, hw, without]
  cases x with
  | free => trivial
  | ready r => exact hnone r h
  | issued r t o => exact h
  | waiting r =>
    obtain ⟨w, hw, -, hpending⟩ := h
    have hdrop : (r.dropWait i).waitsFor = some (without i w) := by simp [ReadRec.dropWait, hw]
    simp only [Slot.dropWait]
    split_ifs with hempty
    · exact hempty
    · refine ⟨without i w, hdrop, by simpa [hdrop] using hempty, fun j hj => ?_⟩
      obtain ⟨hmem, hne⟩ := List.mem_filter.mp hj
      exact hphase j (by simpa using hne) (hpending j hmem)

theorem slotLive_portReset (h : SlotLive entry x) (n : Port) : SlotLive entry (x.portReset n) := by
  cases x with
  | free => trivial
  | waiting r => simp only [Slot.portReset]; split_ifs; exacts [trivial, h]
  | ready r => simp only [Slot.portReset]; split_ifs; exacts [trivial, h]
  | issued r t o => simp only [Slot.portReset]; split_ifs; exacts [h, h]

@[simp] theorem covers_dropWait (i : EntryIx) (x : Slot) (line : Addr) : (x.dropWait i).covers line = x.covers line := by
  cases x with
  | waiting r => simp only [Slot.dropWait]; split_ifs <;> rfl
  | _ => rfl

/-- A slot that covers a line still does after a port reset, unless it is an unissued one of the port (R59). -/
theorem covers_portReset {n : Port} {line : Addr} (h : x.covers line = true)
    (hport : ¬ (x.unissued?.any fun r => r.port == n) = true) : (x.portReset n).covers line = true := by
  cases x with
  | free | issued => cases h
  | waiting r | ready r => rwa [Slot.portReset, if_neg (by simpa [Slot.unissued?] using hport)]

theorem fenceLive_congr (h : FenceLive entry f)
    (hphase : ∀ i, (phase (entry i)).isSome = true → (phase (entry' i)).isSome = true) : FenceLive entry' f := by
  cases f with
  | free => trivial
  | waiting w =>
    obtain ⟨hne, hnodup, hcommitted⟩ := h
    exact ⟨hne, hnodup, fun i hi => hphase i (hcommitted i hi)⟩

theorem fenceLive_portReset (h : FenceLive entry f) (n : Port) : FenceLive entry (f.portReset n) := by
  cases f with
  | free => trivial
  | waiting w => simp only [FenceRec.portReset]; split_ifs; exacts [trivial, h]

/-- A retired entry leaves the wait sets, and a record whose set becomes empty is answered (R91, R92). -/
theorem fenceLive_leave (h : FenceLive entry f) (i : EntryIx) (failed : Bool)
    (hphase : ∀ j, j ≠ i → (phase (entry j)).isSome = true → (phase (entry' j)).isSome = true) :
    FenceLive entry' (if (f.leave i failed).isEmptied then .free else f.leave i failed) := by
  cases f with
  | free => trivial
  | waiting w =>
    obtain ⟨hne, hnodup, hcommitted⟩ := h
    split_ifs with hempty
    · trivial
    · simp only [FenceRec.leave] at hempty ⊢
      split_ifs at hempty ⊢ with hi
      · refine ⟨by simpa [FenceRec.isEmptied] using hempty, hnodup.filter _, fun j hj => ?_⟩
        obtain ⟨hmem, hji⟩ := List.mem_filter.mp hj
        exact hphase j (by simpa using hji) (hcommitted j hmem)
      · refine ⟨hne, hnodup, fun j hj => hphase j ?_ (hcommitted j hj)⟩
        rintro rfl
        exact hi (by simpa using hj)

end OneRecord

/-! ## Every entry, slot and record -/

section States

variable {s t : State} {p : Port} {tag : ReqTag}

theorem holdsLive_iff :
    HoldsLive s ↔ (∀ i, EntryLive s.slot (s.entry i)) ∧ ∀ k, SlotLive s.entry (s.slot k) := by
  constructor
  · intro h
    refine ⟨fun i => ?_, fun k => ?_⟩
    · cases hi : s.entry i with
      | free | member => trivial
      | pending c => exact h.covers i c (by rw [hi]; rfl)
      | issued c t => exact h.issued i c t hi
    · cases hk : s.slot k with
      | free => trivial
      | waiting r =>
        obtain ⟨w, hw, hne, hpending⟩ := h.waiting k r hk
        exact ⟨w, hw, hne, fun i hi => phase_eq_pending.mpr (hpending i hi)⟩
      | ready r => exact h.ready k r hk
      | issued r t o => exact h.sent k r t o hk
  · rintro ⟨hentry, hslot⟩
    refine ⟨fun i c hc k hk => ?_, fun i c t hi => ?_, fun k r hk => ?_, fun k r hk => ?_, fun k r t o hk => ?_⟩
    · have hi := hentry i
      cases hx : s.entry i with
      | free | member => rw [hx] at hc; cases hc
      | pending d =>
        rw [hx] at hc hi
        obtain rfl := Option.some.inj hc
        exact hi k hk
      | issued d t =>
        rw [hx] at hc hi
        obtain rfl := Option.some.inj hc
        change d.blockedBy = [] at hi
        rw [hi] at hk
        cases hk
    · have hlive := hentry i
      rwa [hi] at hlive
    · have hlive := hslot k
      rw [hk] at hlive
      obtain ⟨w, hw, hne, hpending⟩ := hlive
      exact ⟨w, hw, hne, fun i hi => phase_eq_pending.mp (hpending i hi)⟩
    · have hlive := hslot k
      rwa [hk] at hlive
    · have hlive := hslot k
      rwa [hk] at hlive

theorem waitSetsLive_iff : WaitSetsLive s ↔ ∀ j, FenceLive s.entry (s.fence j) := by
  constructor
  · intro h j
    cases hj : s.fence j with
    | free => trivial
    | waiting w =>
      obtain ⟨hne, hnodup, hcommitted⟩ := h j w hj
      exact ⟨hne, hnodup, fun i hi => (isSome_phase _).trans (hcommitted i hi)⟩
  · intro h j w hj
    have hlive := h j
    rw [hj] at hlive
    obtain ⟨hne, hnodup, hcommitted⟩ := hlive
    exact ⟨hne, hnodup, fun i hi => (isSome_phase _).symm.trans (hcommitted i hi)⟩

/-- Committed entries stay committed, PENDING or ISSUED as they are. -/
def KeepsPhases (s t : State) : Prop := ∀ i, (phase (s.entry i)).isSome = true → phase (t.entry i) = phase (s.entry i)

theorem KeepsPhases.pending (h : KeepsPhases s t) (i : EntryIx) (hi : phase (s.entry i) = some true) :
    phase (t.entry i) = some true := by
  rw [h i (by rw [hi]; rfl), hi]

theorem KeepsPhases.committed (h : KeepsPhases s t) (i : EntryIx) (hi : (phase (s.entry i)).isSome = true) :
    (phase (t.entry i)).isSome = true := by
  rwa [h i hi]

theorem keepsPhases_of_entries (h : t.entries = s.entries) : KeepsPhases s t := fun i _ => by
  rw [entry_of_entries h]

/-- An event on entries that keeps the phases. -/
theorem holdsLive_of_keepsPhases (h : HoldsLive s) (hphases : KeepsPhases s t) (hslots : t.slots = s.slots)
    (hentry : ∀ i, EntryLive s.slot (t.entry i)) : HoldsLive t := by
  obtain ⟨-, hs⟩ := holdsLive_iff.mp h
  have hslot : t.slot = s.slot := funext fun k => congrArg (Table.get · k) hslots
  refine holdsLive_iff.mpr ⟨fun i => hslot ▸ hentry i, fun k => ?_⟩
  rw [hslot]
  exact slotLive_congr (hs k) hphases.pending

theorem holdsLive_of_tables (h : HoldsLive s) (hentries : t.entries = s.entries) (hslots : t.slots = s.slots) :
    HoldsLive t :=
  holdsLive_of_keepsPhases h (keepsPhases_of_entries hentries) hslots fun i => by
    rw [entry_of_entries hentries]
    exact (holdsLive_iff.mp h).1 i

theorem waitSetsLive_of_committed (h : WaitSetsLive s) (hfences : t.fences = s.fences)
    (hcommitted : ∀ i, (phase (s.entry i)).isSome = true → (phase (t.entry i)).isSome = true) : WaitSetsLive t :=
  waitSetsLive_iff.mpr fun j => by
    rw [State.fence, hfences]
    exact fenceLive_congr (waitSetsLive_iff.mp h j) hcommitted

theorem waitSetsLive_of_keepsPhases (h : WaitSetsLive s) (hphases : KeepsPhases s t) (hfences : t.fences = s.fences) :
    WaitSetsLive t :=
  waitSetsLive_of_committed h hfences hphases.committed

/-- A new entry is blocked by the slots that cover its line (R8). -/
theorem covers_of_mem_coveringSlots {line : Addr} {k : SlotIx} (hk : k ∈ coveringSlots s line) :
    (s.slot k).covers line = true :=
  Table.mem_positions.mp hk

theorem entryLive_setEntry (h : HoldsLive s) {i : EntryIx} {e : Entry} (he : EntryLive s.slot e) (j : EntryIx) :
    EntryLive s.slot ((s.setEntry i e).entry j) := by
  rw [entry_setEntry]
  split_ifs
  · exact he
  · exact (holdsLive_iff.mp h).1 j

theorem entryLive_releaseEntries (h : HoldsLive s) (l : List EntryIx) (j : EntryIx) :
    EntryLive s.slot ((releaseEntries l s).entry j) := by
  rw [entry_releaseEntries]
  split_ifs
  · trivial
  · exact (holdsLive_iff.mp h).1 j

theorem entryLive_commitMember {e : Entry} (he : EntryLive s.slot e) : EntryLive s.slot (commitMember s e) := by
  cases e with
  | member m => exact fun k hk => covers_of_mem_coveringSlots hk
  | free => trivial
  | pending c => exact he
  | issued c t => exact he

theorem entryLive_commitMembers (h : HoldsLive s) (l : List EntryIx) (j : EntryIx) :
    EntryLive s.slot ((commitMembers l s).entry j) := by
  rw [entry_commitMembers]
  split_ifs
  · exact entryLive_commitMember ((holdsLive_iff.mp h).1 j)
  · exact (holdsLive_iff.mp h).1 j

/-! ## Phases under a move -/

theorem keepsPhases_setEntry {i : EntryIx} {e : Entry}
    (he : (phase (s.entry i)).isSome = true → phase e = phase (s.entry i)) : KeepsPhases s (s.setEntry i e) :=
  fun j hj => by
    rw [entry_setEntry]
    split_ifs with h
    · subst h
      exact he hj
    · rfl

/-- Members are not committed. -/
theorem phase_member (hE : EntriesExact s) {c : CtxIx} {o : OpenCtx} (hc : s.ctx c = .opened o) {i : EntryIx}
    (hi : i ∈ o.members) : phase (s.entry i) = none := by
  obtain ⟨m, hm, -⟩ := hE.2.member c o hc i hi
  rw [hm]
  rfl

theorem keepsPhases_releaseEntries {l : List EntryIx} (hl : ∀ i ∈ l, phase (s.entry i) = none) :
    KeepsPhases s (releaseEntries l s) := fun i hi => by
  rw [entry_releaseEntries, if_neg]
  intro hmem
  rw [hl i hmem] at hi
  cases hi

theorem phase_commitMember (e : Entry) (he : (phase e).isSome = true) : phase (commitMember s e) = phase e := by
  cases e with
  | member m => cases he
  | free => cases he
  | pending c => rfl
  | issued c t => rfl

/-- A move of an acceptance changes no committed entry but by combining. -/
theorem keepsPhases_move {b : Bool} (hE : EntriesExact s) (hm : Move s p tag b t) : KeepsPhases s t := by
  cases hm with
  | answer | slot | fence | bOpen => exact fun _ _ => rfl
  | combine mask data hi => exact keepsPhases_setEntry fun _ => by rw [hi]; rfl
  | allocate cls line mask data hi | join mask data hc hi =>
    exact keepsPhases_setEntry (s := s) fun hsome => by rw [hi] at hsome; cases hsome
  | overlay mask data hc hmem hi =>
    exact keepsPhases_setEntry (s := s) fun hsome => by rw [hi] at hsome; cases hsome
  | abort reason hc =>
    rw [BundleTable.abortCtx_of_open hc]
    exact fun i hi => (congrArg phase (entry_of_entries (by simp) i)).trans
      (keepsPhases_releaseEntries (fun j hj => phase_member hE hc hj) i hi)
  | @bClose c o hc =>
    intro i hi
    rw [entry_of_entries (s := commitMembers o.members s) (by simp), entry_commitMembers]
    split_ifs
    · exact phase_commitMember _ hi
    · rfl
  | drop hc => exact keepsPhases_of_entries (by simp)
  | @cancel c o hc =>
    exact fun i hi => (congrArg phase (entry_of_entries (by simp) i)).trans
      (keepsPhases_releaseEntries (fun j hj => phase_member hE hc hj) i hi)

/-! ## Every step keeps them -/

/-- A slot is replaced by a live one, and covers no less than it did. -/
theorem holdsLive_setSlot (h : HoldsLive s) {k : SlotIx} {x : Slot} (hx : SlotLive s.entry x)
    (hcovers : ∀ line, (s.slot k).covers line = false) : HoldsLive (s.setSlot k x) := by
  obtain ⟨hentries, hslots⟩ := holdsLive_iff.mp h
  refine holdsLive_iff.mpr ⟨fun i => entryLive_congr (hentries i) fun j line hj => ?_, fun j => ?_⟩
  · rw [slot_setSlot, if_neg]
    · exact hj
    · rintro rfl
      rw [hcovers line] at hj
      cases hj
  · rw [slot_setSlot]
    split_ifs
    · exact hx
    · exact hslots j

theorem slotLive_of_takesSlot {x : Slot} (hx : TakesSlot s p tag x) : SlotLive s.entry x := by
  cases hx with
  | ready _ _ hwait => exact hwait
  | waiting _ _ hwait hne hpending => exact ⟨_, hwait, hne, fun i hi => phase_eq_pending.mpr (hpending i hi)⟩

/-- A move of an acceptance keeps blocked-by sets and waits-for sets live. -/
theorem holdsLive_move {b : Bool} (hE : EntriesExact s) (h : HoldsLive s) (hm : Move s p tag b t) : HoldsLive t := by
  have hphases := keepsPhases_move hE hm
  cases hm with
  | answer => exact h
  | slot hk hx => exact holdsLive_setSlot h (slotLive_of_takesSlot hx) fun _ => by rw [hk]; rfl
  | fence | bOpen => exact holdsLive_of_tables h rfl rfl
  | @combine i c mask data hi =>
    have hlive : EntryLive s.slot (.pending c) := hi ▸ (holdsLive_iff.mp h).1 i
    exact holdsLive_of_keepsPhases h hphases rfl (entryLive_setEntry h hlive)
  | allocate cls line mask data hi =>
    exact holdsLive_of_keepsPhases h hphases rfl
      (entryLive_setEntry h fun k hk => covers_of_mem_coveringSlots hk)
  | join mask data hc hi => exact holdsLive_of_keepsPhases h hphases rfl (entryLive_setEntry h trivial)
  | overlay mask data hc hmem hi => exact holdsLive_of_keepsPhases h hphases rfl (entryLive_setEntry h trivial)
  | @abort c o reason hc =>
    rw [BundleTable.abortCtx_of_open hc] at hphases ⊢
    refine holdsLive_of_keepsPhases h hphases (by simp) fun i => ?_
    rw [entry_of_entries (s := releaseEntries o.members s) (by simp)]
    exact entryLive_releaseEntries h _ i
  | @bClose c o hc =>
    refine holdsLive_of_keepsPhases h hphases (by simp) fun i => ?_
    rw [entry_of_entries (s := commitMembers o.members s) (by simp)]
    exact entryLive_commitMembers h _ i
  | drop hc => exact holdsLive_of_tables h (by simp) (by simp)
  | @cancel c o hc =>
    refine holdsLive_of_keepsPhases h hphases (by simp) fun i => ?_
    rw [entry_of_entries (s := releaseEntries o.members s) (by simp)]
    exact entryLive_releaseEntries h _ i

/-- An eligible entry is blocked by no slot, and every waits-for set loses it (R34, R38, R52). -/
theorem holdsLive_issueEntry (h : HoldsLive s) {i : EntryIx} {c : Committed} (he : eligible s i = true)
    (hi : s.entry i = .pending c) (a : AccessTag) : HoldsLive (issueEntry i a s) := by
  obtain ⟨hentries, hslots⟩ := holdsLive_iff.mp h
  obtain ⟨d, hd, hblocked, -⟩ := eligible_some he
  obtain rfl := Entry.pending.inj (hi.symm.trans hd)
  rw [issueEntry_of_pending hi]
  refine holdsLive_iff.mpr ⟨fun j => ?_, fun k => ?_⟩
  · refine entryLive_congr (slot := s.slot) (entryLive_setEntry h (e := .issued c a) hblocked j) fun k line hk => ?_
    rw [slot_dropWaits]
    exact (covers_dropWait i (s.slot k) line).trans hk
  · rw [slot_dropWaits]
    refine slotLive_dropWait (hslots k) i fun j hj hpending => ?_
    change phase ((s.setEntry i _).entry j) = some true
    rwa [entry_setEntry, if_neg hj]

/-- A slot that is issued covers no line, and leaves every blocked-by set (R53). -/
theorem holdsLive_issueSlot (h : HoldsLive s) {k : SlotIx} {r : ReadRec} (hk : s.slot k = .ready r) (a : AccessTag) :
    HoldsLive (issueSlot k a s) := by
  obtain ⟨hentries, hslots⟩ := holdsLive_iff.mp h
  rw [issueSlot_of_ready hk]
  refine holdsLive_iff.mpr ⟨fun j => ?_, fun j => ?_⟩
  · rw [entry_unblock]
    refine entryLive_unblock (slot := s.slot) (hentries j) [k] fun l line hl hcovers => ?_
    change ((s.setSlot k _).slot l).covers line = true
    rwa [slot_setSlot, if_neg (by simpa using hl)]
  · have hphase : ∀ i, phase (s.entry i) = some true → phase ((unblock [k] (s.setSlot k (.issued r a false))).entry i) =
        some true := fun i hi => by rw [entry_unblock, phase_mapCommitted]; exact hi
    refine slotLive_congr ?_ hphase
    change SlotLive s.entry ((s.setSlot k (.issued r a false)).slot j)
    rw [slot_setSlot]
    split_ifs
    · have hlive := hslots k
      rwa [hk] at hlive
    · exact hslots j

theorem keepsPhases_portReset (hE : EntriesExact s) (n : Port) : KeepsPhases s (portResetNow n s) := fun i hi => by
  rw [entry_portReset, phase_dropReply, phase_mapCommitted, if_neg]
  intro hmem
  obtain ⟨c, o, hc, -, hmem⟩ := mem_membersOfPort.mp hmem
  rw [phase_member hE hc hmem] at hi
  cases hi

/-- An entry that retires is in no waits-for set. -/
theorem holdsLive_of_retired (h : HoldsLive s) {i : EntryIx} {c : Committed} {a : AccessTag} (hi : s.entry i = .issued c a)
    (hentries : t.entries = s.entries.set i .free) (hslots : t.slots = s.slots) : HoldsLive t := by
  have hentry : ∀ j, t.entry j = (s.setEntry i .free).entry j := entry_of_entries hentries
  have hslot : t.slot = s.slot := funext fun k => congrArg (Table.get · k) hslots
  refine holdsLive_iff.mpr ⟨fun j => ?_, fun k => ?_⟩
  · rw [hslot, hentry]
    exact entryLive_setEntry h (e := .free) trivial j
  · rw [hslot]
    refine slotLive_congr ((holdsLive_iff.mp h).2 k) fun j hj => ?_
    rw [hentry, entry_setEntry, if_neg]
    · exact hj
    · rintro rfl
      rw [hi] at hj
      cases hj

/-- The slots that a port reset frees leave every blocked-by set (R59). -/
theorem holdsLive_portReset (hE : EntriesExact s) (h : HoldsLive s) (n : Port) : HoldsLive (portResetNow n s) := by
  obtain ⟨hentries, hslots⟩ := holdsLive_iff.mp h
  refine holdsLive_iff.mpr ⟨fun i => ?_, fun k => ?_⟩
  · rw [entry_portReset]
    refine entryLive_dropReply (entryLive_unblock (slot := s.slot) ?_ _ fun k line hk hcovers => ?_) n
    · split_ifs
      · trivial
      · exact hentries i
    · rw [slot_portReset]
      exact covers_portReset hcovers fun hmem => hk (Table.mem_positions.mpr hmem)
  · rw [slot_portReset]
    exact slotLive_portReset (slotLive_congr (hslots k) (keepsPhases_portReset hE n).pending) n

theorem keepsPhases_advance (s : State) : KeepsPhases s (advanceTimers s) := fun i _ => by
  rw [entry_advance, phase_tick]

/-- The wait set of a new record holds the committed entries it captures, each once (R88). -/
theorem waitSetsLive_move {b : Bool} (hE : EntriesExact s) (h : WaitSetsLive s) (hm : Move s p tag b t) :
    WaitSetsLive t := by
  have hphases := keepsPhases_move hE hm
  cases hm with
  | @fence j kind hj hwait =>
    refine waitSetsLive_iff.mpr fun l => ?_
    rw [fence_setFence]
    split_ifs
    · refine ⟨hwait, Table.nodup_positions _ _, fun i hi => ?_⟩
      exact (isSome_phase _).trans (isSome_committed_of_committedWith (Table.mem_positions.mp hi))
    · exact waitSetsLive_iff.mp h l
  | _ => exact waitSetsLive_of_keepsPhases h hphases (by simp)

/-- The events keep blocked-by sets and waits-for sets live. -/
theorem conserved_holdsLive : Conserved EntriesExact HoldsLive := TablesConserved.conserved {
  tables := fun hst h => holdsLive_of_tables h hst.entries hst.slots
  move := holdsLive_move
  issueWrite := fun _ h _ he hc => holdsLive_of_tables (holdsLive_issueEntry h he hc _) rfl rfl
  issueRead := fun _ h _ hr => holdsLive_of_tables (holdsLive_issueSlot h hr _) rfl rfl
  retire := fun {s t i n c t'} e _ h _ hi => by
    have hentries := entries_endWrite (s := s.setAccess t e.recordAfter) hi e
    refine holdsLive_of_retired (s := s) h hi (by simpa using hentries) (by simp)
  answer := fun {s t k n r t' b} e _ h _ hk =>
    holdsLive_setSlot (s := s.setAccess t e.recordAfter) (holdsLive_of_tables (s := s) h rfl rfl) trivial fun _ => by
      rw [show (s.setAccess t e.recordAfter).slot k = _ from hk]; rfl
  records := fun {s t} _ h ht => holdsLive_of_tables (s := s) h ht.frame.tables.entries ht.frame.tables.slots
  advance := fun {s} _ h => holdsLive_of_keepsPhases h (keepsPhases_advance s) (by simp) fun i => by
    rw [entry_advance]
    exact entryLive_tick ((holdsLive_iff.mp h).1 i)
  portReset := fun n hE h => holdsLive_portReset hE h n
  reset := holdsLive_iff.mpr ⟨fun i => by rw [State.entry, State.reset, Table.get_replicate]; trivial,
    fun k => by rw [State.slot, State.reset, Table.get_replicate]; trivial⟩ }

/-- The events keep wait sets live. -/
theorem conserved_waitSetsLive : Conserved EntriesExact WaitSetsLive := TablesConserved.conserved {
  tables := fun hst h => waitSetsLive_of_keepsPhases h (keepsPhases_of_entries hst.entries) hst.fences
  move := waitSetsLive_move
  issueWrite := fun {s t i c} _ h _ _ hc => waitSetsLive_of_committed (s := s) h (by simp) fun j hj => by
    rw [issueEntry_of_pending hc]
    change (phase ((s.setEntry i _).entry j)).isSome = true
    rw [entry_setEntry]
    split_ifs
    · rfl
    · exact hj
  issueRead := fun {s t k r} _ h _ hr => waitSetsLive_of_committed (s := s) h (by simp) fun j hj => by
    rw [issueSlot_of_ready hr]
    change (phase ((unblock [k] (s.setSlot k _)).entry j)).isSome = true
    rw [entry_unblock, phase_mapCommitted]
    exact hj
  retire := fun {s t i n c t'} e _ h _ hi => waitSetsLive_iff.mpr fun j => by
    have hentries := entries_endWrite (s := s.setAccess t e.recordAfter) hi e
    rw [fence_endWrite (s := s.setAccess t e.recordAfter) hi e]
    refine fenceLive_leave (entry := s.entry) (waitSetsLive_iff.mp h j) i e.failed fun l hl hsome => ?_
    rwa [State.entry, hentries, Table.get_set, if_neg hl]
  answer := fun {s t k n r t' b} e _ h _ hk => waitSetsLive_of_committed (s := s) h rfl fun _ => id
  records := fun {s t} _ h ht =>
    waitSetsLive_of_keepsPhases (s := s) h (keepsPhases_of_entries ht.frame.tables.entries) ht.frame.tables.fences
  advance := fun {s} _ h => waitSetsLive_of_keepsPhases h (keepsPhases_advance s) (by simp)
  portReset := fun {s} n hE h => waitSetsLive_iff.mpr fun j => by
    rw [fence_portReset]
    exact fenceLive_portReset (fenceLive_congr (waitSetsLive_iff.mp h j) (keepsPhases_portReset hE n).committed) n
  reset := waitSetsLive_iff.mpr fun j => by rw [State.fence, State.reset, Table.get_replicate]; trivial }

end States

/-- Settles O59: a slot leaves the blocked-by sets as it stops covering, and an entry the waits-for sets at its issue
and the wait sets at its retirement. -/
theorem stepKeepsHoldsAndWaitSetsLive : Obligations.StepKeepsHoldsAndWaitSetsLive := fun _ _ hE hH hW hstep =>
  ⟨((conserved_holdsLive.kept kept_entriesExact).step ⟨hE, hH⟩ hstep).2,
    ((conserved_waitSetsLive.kept kept_entriesExact).step ⟨hE, hW⟩ hstep).2⟩

end Sys2Proof.Holds
end

section
/-! The account of tags (R1, R123, R125, R132, R133): what a record owes, and that an event which changes records and
response queues moves an answer from the records to a queue, or to the port. -/

namespace Sys2Proof.Account

open Sys2Proof.Machine Sys2Proof.Safety Sys2Proof.Events Sys2Proof.ExactLists

/-! ## What one record owes -/

/-- The port and the tag that an entry owes an answer. -/
def entryOwing (e : Entry) : Option (Port × ReqTag) := e.committed?.bind fun c => c.replyTag.map fun g => (c.port, g)

/-- The port and the tag that a slot owes an answer. -/
def slotOwing : Slot → Option (Port × ReqTag)
  | .free => none
  | .waiting r | .ready r => some (r.port, r.tag)
  | .issued r _ orphaned => if orphaned then none else some (r.port, r.tag)

/-- The port and the tag that a fence record owes an answer. -/
def fenceOwing : FenceRec → Option (Port × ReqTag)
  | .free => none
  | .waiting w => some (w.port, w.tag)

/-- An answer owed, counted under a port and a tag. -/
def counted (x : Option (Port × ReqTag)) (q : Port) (g : ReqTag) : Nat := if x = some (q, g) then 1 else 0

section OneRecord

variable {q : Port} {g : ReqTag}

@[simp] theorem counted_none (q : Port) (g : ReqTag) : counted none q g = 0 := rfl

theorem entryOwes_eq (q : Port) (g : ReqTag) (e : Entry) : entryOwes q g e = decide (entryOwing e = some (q, g)) := by
  have hcommitted : ∀ c : Committed, (c.port == q && c.replyTag == some g) =
      decide ((c.replyTag.map fun g => (c.port, g)) = some (q, g)) := by
    intro c
    cases c.replyTag with
    | none => simp
    | some h => by_cases hport : c.port = q <;> by_cases htag : h = g <;> simp [hport, htag]
  cases e with
  | free | member => rfl
  | pending c | issued c => exact hcommitted c

theorem slotOwes_eq (q : Port) (g : ReqTag) (x : Slot) : slotOwes q g x = decide (slotOwing x = some (q, g)) := by
  cases x with
  | free => rfl
  | waiting r | ready r => simp [slotOwes, slotOwing, beq_eq_decide]
  | issued r t o => cases o <;> simp [slotOwes, slotOwing, beq_eq_decide]

theorem fenceOwes_eq (q : Port) (g : ReqTag) (f : FenceRec) : fenceOwes q g f = decide (fenceOwing f = some (q, g)) := by
  cases f with
  | free => rfl
  | waiting w => simp [fenceOwes, fenceOwing, beq_eq_decide]

@[simp] theorem entryOwing_tick (e : Entry) : entryOwing e.tick = entryOwing e := by cases e <;> rfl

theorem entryOwing_unblocked (gone : List SlotIx) (e : Entry) :
    entryOwing (e.mapCommitted fun c => { c with blockedBy := c.blockedBy.filter fun k => !gone.contains k }) =
      entryOwing e := by
  cases e <;> rfl

@[simp] theorem entryOwing_commitMember (s : State) (e : Entry) : entryOwing (commitMember s e) = entryOwing e := by
  cases e <;> rfl

@[simp] theorem slotOwing_dropWait (i : EntryIx) (x : Slot) : slotOwing (x.dropWait i) = slotOwing x := by
  cases x with
  | waiting r => simp only [Slot.dropWait]; split_ifs <;> rfl
  | _ => rfl

@[simp] theorem fenceOwing_leave (i : EntryIx) (failed : Bool) (f : FenceRec) :
    fenceOwing (f.leave i failed) = fenceOwing f := by
  cases f with
  | free => rfl
  | waiting w => simp only [FenceRec.leave]; split_ifs <;> rfl

/-- What is owed to a port is dropped at its reset, and nothing else is. -/
def keptFrom (n : Port) (x : Option (Port × ReqTag)) : Option (Port × ReqTag) := x.filter fun y => y.1 != n

theorem keptFrom_eq_some {n : Port} {x : Option (Port × ReqTag)} :
    keptFrom n x = some (q, g) ↔ q ≠ n ∧ x = some (q, g) := by
  cases x with
  | none => simp [keptFrom]
  | some y =>
    simp only [keptFrom, Option.filter_eq_some_iff, Option.some.injEq, bne_iff_ne]
    constructor
    · rintro ⟨rfl, hn⟩
      exact ⟨hn, rfl⟩
    · rintro ⟨hn, rfl⟩
      exact ⟨rfl, hn⟩

theorem slotOwing_portReset (n : Port) (x : Slot) : slotOwing (x.portReset n) = keptFrom n (slotOwing x) := by
  have hread : ∀ r : ReadRec, keptFrom n (some (r.port, r.tag)) = if r.port = n then none else some (r.port, r.tag) := by
    intro r
    by_cases h : r.port = n <;> simp [keptFrom, Option.filter, h]
  cases x with
  | free => rfl
  | waiting r | ready r =>
    simp only [Slot.portReset, slotOwing, hread]
    split_ifs <;> rfl
  | issued r t o =>
    cases o with
    | false =>
      simp only [Slot.portReset, slotOwing, Bool.false_eq_true, if_false, hread]
      split_ifs <;> rfl
    | true =>
      simp only [Slot.portReset, slotOwing, if_true]
      split_ifs <;> rfl

theorem fenceOwing_portReset (n : Port) (f : FenceRec) : fenceOwing (f.portReset n) = keptFrom n (fenceOwing f) := by
  cases f with
  | free => rfl
  | waiting w =>
    simp only [FenceRec.portReset, fenceOwing]
    by_cases h : w.port = n <;> simp [keptFrom, Option.filter, h]

end OneRecord

/-! ## Reply tags (R1) -/

/-- An entry carries a reply tag only as a THROUGH entry. -/
def RepliesThrough (e : Entry) : Prop := ∀ c, e.committed? = some c → c.replyTag ≠ none → c.cls = .through

section Replies

variable {s t : State} {p : Port} {tag : ReqTag} {e : Entry}

theorem repliesThrough_of_none (h : entryOwing e = none) : RepliesThrough e := fun c hc hreply => by
  rw [entryOwing, hc] at h
  exact absurd (Option.map_eq_none_iff.mp h) hreply

/-- A change that keeps reply tag and class. -/
theorem repliesThrough_mapCommitted (h : RepliesThrough e) {f : Committed → Committed}
    (hf : ∀ c, ((f c).replyTag = none ∨ (f c).replyTag = c.replyTag) ∧ (f c).cls = c.cls) :
    RepliesThrough (e.mapCommitted f) := by
  have hkeep : ∀ c, e.committed? = some c → (f c).replyTag ≠ none → (f c).cls = .through := by
    intro c hc hreply
    obtain ⟨htag, hcls⟩ := hf c
    exact hcls.trans (h c hc (htag.resolve_left hreply ▸ hreply))
  cases e with
  | free | member => exact nofun
  | pending c => exact fun d hd => Option.some.inj hd ▸ hkeep c rfl
  | issued c t => exact fun d hd => Option.some.inj hd ▸ hkeep c rfl

theorem repliesThrough_setEntry (h : ∀ i, RepliesThrough (s.entry i)) {i : EntryIx} (he : RepliesThrough e) (j : EntryIx) :
    RepliesThrough ((s.setEntry i e).entry j) := by
  rw [entry_setEntry]
  split_ifs
  · exact he
  · exact h j

theorem repliesThrough_of_entries (h : ∀ i, RepliesThrough (s.entry i)) (hentries : t.entries = s.entries)
    (i : EntryIx) : RepliesThrough (t.entry i) := by
  rw [entry_of_entries hentries]
  exact h i

theorem repliesThrough_releaseEntries (h : ∀ i, RepliesThrough (s.entry i)) (l : List EntryIx) (i : EntryIx) :
    RepliesThrough ((releaseEntries l s).entry i) := by
  rw [entry_releaseEntries]
  split_ifs
  · exact nofun
  · exact h i

theorem repliesThrough_commitMembers (h : ∀ i, RepliesThrough (s.entry i)) (l : List EntryIx) (i : EntryIx) :
    RepliesThrough ((commitMembers l s).entry i) := by
  have hcommit : RepliesThrough (commitMember s (s.entry i)) := by
    have hi := h i
    cases hx : s.entry i with
    | free => exact nofun
    | member m => exact repliesThrough_of_none rfl
    | pending c | issued c => rwa [hx] at hi
  rw [entry_commitMembers]
  split_ifs
  · exact hcommit
  · exact h i

/-- A new entry has a reply tag where it is THROUGH (R7). -/
theorem repliesThrough_newEntry (s : State) (p : Port) (tag : ReqTag) (cls : WClass) (line : Addr) (mask : ByteMask)
    (data : LineData) : RepliesThrough (.pending (newEntry s p tag cls line mask data)) := by
  intro c hc hreply
  obtain rfl := Option.some.inj hc
  by_contra hcls
  exact hreply (if_neg hcls)

theorem repliesThrough_move {b : Bool} (h : ∀ i, RepliesThrough (s.entry i)) (hm : Move s p tag b t) (i : EntryIx) :
    RepliesThrough (t.entry i) := by
  cases hm with
  | answer | slot | fence | bOpen => exact h i
  | @combine j c mask data hj =>
    have hc : RepliesThrough (.pending c) := hj ▸ h j
    refine repliesThrough_setEntry h (fun d hd hreply => ?_) i
    obtain rfl := Option.some.inj hd
    exact hc c rfl hreply
  | allocate cls line mask data hj => exact repliesThrough_setEntry h (repliesThrough_newEntry s p tag cls line mask data) i
  | overlay mask data hc hmem hj => exact repliesThrough_setEntry h (repliesThrough_of_none rfl) i
  | join mask data hc hj => exact repliesThrough_setEntry h (repliesThrough_of_none rfl) i
  | @abort c o reason hc =>
    rw [BundleTable.abortCtx_of_open hc]
    exact repliesThrough_of_entries (repliesThrough_releaseEntries h o.members) (by simp) i
  | @bClose c o hc => exact repliesThrough_of_entries (repliesThrough_commitMembers h o.members) (by simp) i
  | drop hc => exact repliesThrough_of_entries h (by simp) i
  | @cancel c o hc => exact repliesThrough_of_entries (repliesThrough_releaseEntries h o.members) (by simp) i

theorem repliesThrough_unblocked (h : RepliesThrough e) (gone : List SlotIx) :
    RepliesThrough (e.mapCommitted fun c => { c with blockedBy := c.blockedBy.filter fun k => !gone.contains k }) :=
  repliesThrough_mapCommitted h fun _ => ⟨.inr rfl, rfl⟩

/-- The events keep reply tags to THROUGH entries. -/
theorem conserved_repliesThrough : Conserved EntriesExact fun s => ∀ i, RepliesThrough (s.entry i) :=
  TablesConserved.conserved {
    tables := fun hst h => repliesThrough_of_entries h hst.entries
    move := fun _ h hm => repliesThrough_move h hm
    issueWrite := fun {s t i c} _ h _ _ hc => by
      have hi : RepliesThrough (.issued c t) := fun d hd => h i d (by rw [hc]; exact hd)
      rw [issueEntry_of_pending hc]
      exact repliesThrough_setEntry h hi
    issueRead := fun {s t k r} _ h _ hr i => by
      rw [issueSlot_of_ready hr]
      change RepliesThrough ((unblock [k] (s.setSlot k _)).entry i)
      rw [entry_unblock]
      exact repliesThrough_unblocked (h i) [k]
    retire := fun {s t i n c t'} e _ h _ hi => by
      have hentries := entries_endWrite (s := s.setAccess t e.recordAfter) hi e
      exact repliesThrough_of_entries (repliesThrough_setEntry h (repliesThrough_of_none rfl)) hentries
    answer := fun _ _ h _ _ => h
    records := fun _ h ht => repliesThrough_of_entries h ht.frame.tables.entries
    advance := fun {s} _ h i => by
      rw [entry_advance]
      have hi := h i
      cases hx : s.entry i with
      | pending c => exact fun d hd => Option.some.inj hd ▸ hi c (by rw [hx]; rfl)
      | _ => rwa [hx] at hi
    portReset := fun {s} n _ h i => by
      rw [entry_portReset]
      refine repliesThrough_mapCommitted (repliesThrough_unblocked ?_ _) fun c => ?_
      · split_ifs
        · exact nofun
        · exact h i
      · split_ifs
        · exact ⟨.inl rfl, rfl⟩
        · exact ⟨.inr rfl, rfl⟩
    reset := fun i => by rw [State.entry, State.reset, Table.get_replicate]; exact nofun }

end Replies

end Sys2Proof.Account
end

section
/-! Every step keeps the account of tags: what an event takes from the records it places in a queue, an acceptance opens one
account, a delivery closes one, and a port reset closes all accounts of its port (R125, R132, R133, R135). -/

namespace Sys2Proof.Account

open Sys2Proof.Machine Sys2Proof.Safety Sys2Proof.Events Sys2Proof.ExactLists

/-! ## Counts -/

/-- How many answers the records owe port q under a tag. -/
def owed (s : State) (q : Port) (g : ReqTag) : Nat :=
  s.entries.count (entryOwes q g) + s.slots.count (slotOwes q g) + s.fences.count (fenceOwes q g)

/-- How many responses under a tag port q has queued. -/
def queued (s : State) (q : Port) (g : ReqTag) : Nat := (s.port q).queue.countP fun r => r.tag == g

/-- The records owe what they owed, one by one. -/
structure SameOwing (s t : State) : Prop where
  entries : ∀ i, entryOwing (t.entry i) = entryOwing (s.entry i)
  slots : ∀ k, slotOwing (t.slot k) = slotOwing (s.slot k)
  fences : ∀ j, fenceOwing (t.fence j) = fenceOwing (s.fence j)

/-- Ports and accounts are as before. -/
structure Balanced (s t : State) : Prop where
  head : ∀ q, (t.port q).head = (s.port q).head
  outstanding : ∀ q, (t.port q).outstanding = (s.port q).outstanding
  due : ∀ q g, answersDue t q g = answersDue s q g

section Counts

variable {s t u : State} {p q : Port} {tag g : ReqTag}

theorem answersDue_eq (s : State) (q : Port) (g : ReqTag) : answersDue s q g = queued s q g + owed s q g := by
  simp only [answersDue, queued, owed]
  omega

theorem SameOwing.of_tables (h : SameTables s t) : SameOwing s t where
  entries i := by rw [entry_of_entries h.entries]
  slots k := by rw [State.slot, h.slots, State.slot]
  fences j := by rw [State.fence, h.fences, State.fence]

theorem SameOwing.trans (h : SameOwing s t) (k : SameOwing t u) : SameOwing s u where
  entries i := (k.entries i).trans (h.entries i)
  slots j := (k.slots j).trans (h.slots j)
  fences j := (k.fences j).trans (h.fences j)

theorem Balanced.refl (s : State) : Balanced s s := ⟨fun _ => rfl, fun _ => rfl, fun _ _ => rfl⟩

theorem Balanced.trans (h : Balanced s t) (k : Balanced t u) : Balanced s u where
  head q := (k.head q).trans (h.head q)
  outstanding q := (k.outstanding q).trans (h.outstanding q)
  due q g := (k.due q g).trans (h.due q g)

theorem owed_congr (h : SameOwing s t) (q : Port) (g : ReqTag) : owed t q g = owed s q g := by
  have hentries : t.entries.count (entryOwes q g) = s.entries.count (entryOwes q g) := Table.count_congr fun i => by
    rw [entryOwes_eq, entryOwes_eq, show entryOwing (t.entries.get i) = _ from h.entries i]
  have hslots : t.slots.count (slotOwes q g) = s.slots.count (slotOwes q g) := Table.count_congr fun k => by
    rw [slotOwes_eq, slotOwes_eq, show slotOwing (t.slots.get k) = _ from h.slots k]
  have hfences : t.fences.count (fenceOwes q g) = s.fences.count (fenceOwes q g) := Table.count_congr fun j => by
    rw [fenceOwes_eq, fenceOwes_eq, show fenceOwing (t.fences.get j) = _ from h.fences j]
  rw [owed, hentries, hslots, hfences, owed]

theorem queued_congr (h : SamePorts s t) (q : Port) (g : ReqTag) : queued t q g = queued s q g := by
  rw [queued, h.queue, queued]

theorem balanced_of (hports : SamePorts s t) (howing : SameOwing s t) : Balanced s t where
  head := hports.head
  outstanding := hports.outstanding
  due q g := by rw [answersDue_eq, answersDue_eq, queued_congr hports, owed_congr howing]

theorem balanced_of_tables (hports : SamePorts s t) (htables : SameTables s t) : Balanced s t :=
  balanced_of hports (.of_tables htables)

theorem owed_setEntry (s : State) (i : EntryIx) (e : Entry) (q : Port) (g : ReqTag) :
    owed (s.setEntry i e) q g + counted (entryOwing (s.entry i)) q g = owed s q g + counted (entryOwing e) q g := by
  have hcount := Table.count_set (entryOwes q g) s.entries i e
  simp only [entryOwes_eq, decide_eq_true_eq] at hcount
  simp only [owed, counted, State.setEntry_entries, State.setEntry_slots, State.setEntry_fences, State.entry]
  omega

theorem owed_setSlot (s : State) (k : SlotIx) (x : Slot) (q : Port) (g : ReqTag) :
    owed (s.setSlot k x) q g + counted (slotOwing (s.slot k)) q g = owed s q g + counted (slotOwing x) q g := by
  have hcount := Table.count_set (slotOwes q g) s.slots k x
  simp only [slotOwes_eq, decide_eq_true_eq] at hcount
  simp only [owed, counted, State.setSlot_entries, State.setSlot_slots, State.setSlot_fences, State.slot]
  omega

theorem owed_setFence (s : State) (j : FenceIx) (f : FenceRec) (q : Port) (g : ReqTag) :
    owed (s.setFence j f) q g + counted (fenceOwing (s.fence j)) q g = owed s q g + counted (fenceOwing f) q g := by
  have hcount := Table.count_set (fenceOwes q g) s.fences j f
  simp only [fenceOwes_eq, decide_eq_true_eq] at hcount
  simp only [owed, counted, State.setFence_entries, State.setFence_slots, State.setFence_fences, State.fence]
  omega

/-- A placed response is one more queued under its tag. -/
theorem queued_place (s : State) (p : Port) (tag : ReqTag) (a : Answer) (q : Port) (g : ReqTag) :
    queued (place p tag a s) q g = queued s q g + counted (some (p, tag)) q g := by
  simp only [queued, place, port_setPort, counted, Option.some.injEq, Prod.mk.injEq]
  by_cases hq : q = p
  · subst hq
    by_cases hg : tag = g <;> simp [hg]
  · simp [hq, Ne.symm hq]

/-- An answer that a record owed, placed. -/
theorem balanced_place (hports : u.ports = s.ports) (a : Answer)
    (howed : ∀ q g, owed u q g + counted (some (p, tag)) q g = owed s q g) : Balanced s (place p tag a u) where
  head q := by
    have hplaced := SamePorts.of_ports hports
    rw [← hplaced.head q, place, port_setPort]
    split_ifs with hq
    · rw [hq]
    · rfl
  outstanding q := by
    have hplaced := SamePorts.of_ports hports
    rw [← hplaced.outstanding q, place, port_setPort]
    split_ifs with hq
    · rw [hq]
    · rfl
  due q g := by
    have howed' := howed q g
    rw [answersDue_eq, answersDue_eq, queued_place, queued_congr (.of_ports hports)]
    change queued s q g + counted (some (p, tag)) q g + owed u q g = _
    omega

end Counts

/-! ## The end of an access -/

section Ends

variable {s t u : State}

/-- A record that is answered owes nothing more (R91). -/
theorem balanced_answerFence (s : State) (j : FenceIx) : Balanced s (answerFence s j) := by
  unfold answerFence
  split
  next w hw =>
    refine balanced_place (s := s) (u := s.setFence j .free) rfl _ fun q g => ?_
    have hset := owed_setFence s j .free q g
    rw [hw] at hset
    exact hset
  next => exact .refl s

theorem balanced_answerEmptied (s : State) : Balanced s (answerEmptied s) := by
  have hfold : ∀ (l : List FenceIx) (s : State), Balanced s (l.foldl answerFence s) := by
    intro l
    induction l with
    | nil => exact .refl
    | cons j l ih => exact fun s => (balanced_answerFence s j).trans (ih _)
  exact hfold _ s

theorem balanced_afterRelease (s : State) : Balanced s (afterRelease s) :=
  balanced_of_tables (.of_ports (by simp)) (by constructor <;> simp)

theorem balanced_leaveFences (i : EntryIx) (failed : Bool) (s : State) : Balanced s (leaveFences i failed s) :=
  balanced_of (.of_ports rfl) ⟨fun _ => rfl, fun _ => rfl, fun j => by
    rw [leaveFences, State.fence, Table.get_mapIx, fenceOwing_leave, State.fence]⟩

theorem samePorts_reportPosted (c : Committed) (k : FaultKind) (s : State) : SamePorts s (reportPosted c k s) := by
  have hfault : SamePorts s (recordFault (faultRecordOf s c k) s) := .of_ports (by simp)
  exact hfault.trans (samePorts_setPort rfl rfl rfl)

/-- Only a THROUGH entry with a reply tag is answered at its end (R17 to R19). -/
theorem reportEnd_cases {c : Committed} (hc : RepliesThrough (.pending c)) (e : AccessEnd) (s : State) :
    (∃ g a, c.replyTag = some g ∧ reportEnd c e s = place c.port g a s) ∨
      (c.replyTag = none ∧ SamePorts s (reportEnd c e s)) := by
  have hanswer : ∀ a, (∃ g b, c.replyTag = some g ∧ answerThrough c a s = place c.port g b s) ∨
      (c.replyTag = none ∧ SamePorts s (answerThrough c a s)) := by
    intro a
    unfold answerThrough
    split
    next g hg => exact .inl ⟨g, a, hg, rfl⟩
    next hnone => exact .inr ⟨hnone, .of_ports rfl⟩
  have hposted : c.cls ≠ .through → c.replyTag = none := fun hcls => by
    by_contra hreply
    exact hcls (hc c rfl hreply)
  cases hcls : c.cls with
  | through => cases e <;> simpa only [reportEnd, hcls] using hanswer _
  | post | ordered =>
    refine .inr ⟨hposted (by rw [hcls]; decide), ?_⟩
    cases e with
    | ok data => simpa only [reportEnd, hcls] using SamePorts.of_ports rfl
    | error | timeout => simpa only [reportEnd, hcls] using samePorts_reportPosted c _ s

theorem owed_dropEntry {i : EntryIx} {c : Committed} {a : AccessTag} (hi : s.entry i = .issued c a) (htables : SameTables s u)
    (q : Port) (g : ReqTag) : owed (dropEntry i u) q g + counted (entryOwing (.pending c)) q g = owed s q g := by
  have hset := owed_setEntry u i .free q g
  rw [entry_of_entries htables.entries, hi] at hset
  rw [← owed_congr (.of_tables htables) q g]
  exact hset

/-- The report of a retired entry is what the entry owed (R17, R19). -/
theorem balanced_dropEntry {i : EntryIx} {c : Committed} {a : AccessTag} (hi : s.entry i = .issued c a)
    (hc : RepliesThrough (.pending c)) (e : AccessEnd) : Balanced s (dropEntry i (reportEnd c e s)) := by
  obtain ⟨g, b, hg, hplace⟩ | ⟨hg, hports⟩ := reportEnd_cases hc e s
  · rw [hplace]
    have howing : entryOwing (.pending c) = some (c.port, g) := by simp [entryOwing, Entry.committed?, hg]
    exact balanced_place (s := s) (u := dropEntry i s) rfl b fun q h => howing ▸ owed_dropEntry hi (.refl s) q h
  · have howing : entryOwing (.pending c) = none := by simp [entryOwing, Entry.committed?, hg]
    have hdropped : SamePorts s (dropEntry i (reportEnd c e s)) := hports.trans (.of_ports rfl)
    refine ⟨hdropped.head, hdropped.outstanding, fun q h => ?_⟩
    have howed := owed_dropEntry hi (u := reportEnd c e s) (by constructor <;> simp) q h
    rw [howing, counted_none] at howed
    rw [answersDue_eq, answersDue_eq, queued_congr hdropped]
    omega

theorem balanced_endWrite (hreplies : ∀ i, RepliesThrough (s.entry i)) (i : EntryIx) (e : AccessEnd) :
    Balanced s (endWrite i e s) := by
  unfold endWrite
  split
  next c t hi =>
    have hc : RepliesThrough (.pending c) := fun d hd => hreplies i d (by rw [hi]; exact hd)
    exact ((balanced_dropEntry hi hc e).trans (balanced_leaveFences i e.failed _)).trans
      ((balanced_answerEmptied _).trans (balanced_afterRelease _))
  next => exact .refl s

/-- A read that ends is answered, unless its slot is orphaned (R54, R60). -/
theorem balanced_endRead (k : SlotIx) (e : AccessEnd) (s : State) : Balanced s (endRead k e s) := by
  have hset := owed_setSlot s k .free
  unfold endRead
  split
  next r t hk =>
    rw [hk] at hset
    exact balanced_place (s := s) (u := s.setSlot k .free) rfl _ hset
  next r t hk =>
    rw [hk] at hset
    refine ⟨fun _ => rfl, fun _ => rfl, fun q g => ?_⟩
    rw [answersDue_eq, answersDue_eq, queued_congr (.of_ports rfl)]
    exact congrArg (queued s q g + ·) (hset q g)
  next => exact .refl s

theorem balanced_setAccess (s : State) (t : AccessTag) (a : AccessRec) : Balanced s (s.setAccess t a) :=
  balanced_of (.of_ports rfl) ⟨fun _ => rfl, fun _ => rfl, fun _ => rfl⟩

theorem balanced_endAccess (hreplies : ∀ i, RepliesThrough (s.entry i)) (t : AccessTag) (e : AccessEnd) :
    Balanced s (endAccess t e s) := by
  unfold endAccess
  split
  next o n ho =>
    refine (balanced_setAccess s t e.recordAfter).trans ?_
    cases o with
    | write i => exact balanced_endWrite (s := s.setAccess t e.recordAfter) hreplies i e
    | read k => exact balanced_endRead k e _
  next => exact .refl s

end Ends

/-! ## An acceptance -/

section Acceptance

variable {s t u : State} {p : Port} {tag : ReqTag}

theorem entryOwing_of_not_committed {e : Entry} (h : kind e ≠ some none) : entryOwing e = none := by
  cases e with
  | free | member => rfl
  | pending | issued => exact absurd rfl h

theorem kind_member_ne (hE : EntriesExact s) {c : CtxIx} {o : OpenCtx} (hc : s.ctx c = .opened o) {i : EntryIx}
    (hi : i ∈ o.members) : kind (s.entry i) ≠ some none := by
  obtain ⟨m, hm, -⟩ := hE.2.member c o hc i hi
  rw [hm]
  exact nofun

/-- Members owe nothing, so their release drops no account. -/
theorem sameOwing_releaseEntries {l : List EntryIx} (hl : ∀ i ∈ l, kind (s.entry i) ≠ some none) :
    SameOwing s (releaseEntries l s) := by
  refine ⟨fun i => ?_, fun _ => rfl, fun _ => rfl⟩
  rw [entry_releaseEntries]
  split_ifs with hi
  · exact (entryOwing_of_not_committed (hl i hi)).symm
  · rfl

theorem sameOwing_of_frame (hentries : t.entries = s.entries) (hslots : t.slots = s.slots) (hfences : t.fences = s.fences) :
    SameOwing s t where
  entries i := by rw [entry_of_entries hentries]
  slots k := by rw [State.slot, hslots, State.slot]
  fences j := by rw [State.fence, hfences, State.fence]

theorem sameOwing_setEntry {i : EntryIx} {e : Entry} (he : entryOwing e = entryOwing (s.entry i)) :
    SameOwing s (s.setEntry i e) := by
  refine ⟨fun j => ?_, fun _ => rfl, fun _ => rfl⟩
  rw [entry_setEntry]
  split_ifs with hj
  · rw [he, hj]
  · rfl

theorem sameOwing_abort (hE : EntriesExact s) (c : CtxIx) (reason : AbortReason) : SameOwing s (abortCtx c reason s) := by
  cases hx : (s.ctx c).isOpen with
  | false =>
    rw [BundleTable.abortCtx_of_not_open hx]
    exact .of_tables (.refl s)
  | true =>
    obtain ⟨o, ho⟩ := isOpen_iff.mp hx
    rw [BundleTable.abortCtx_of_open ho]
    refine (sameOwing_releaseEntries fun i hi => kind_member_ne hE ho hi).trans ?_
    exact sameOwing_of_frame (by simp) (by simp) (by simp)

theorem slotOwing_of_takesSlot {x : Slot} (hx : TakesSlot s p tag x) : slotOwing x = some (p, tag) := by
  cases hx with
  | ready hport htag => rw [← hport, ← htag]; rfl
  | waiting hport htag => rw [← hport, ← htag]; rfl

theorem entryOwing_newEntry (s : State) (p : Port) (tag : ReqTag) (cls : WClass) (line : Addr) (mask : ByteMask)
    (data : LineData) : entryOwing (.pending (newEntry s p tag cls line mask data)) =
      if (cls != .through) = true then none else some (p, tag) := by
  cases cls <;> rfl

/-- A move that leaves an answer owed opens one account, and a move that answers opens none. -/
theorem owed_move (hE : EntriesExact s) {b : Bool} (hm : Move s p tag b u) (q : Port) (g : ReqTag) :
    owed u q g = owed s q g + counted (if b = true then none else some (p, tag)) q g := by
  have same : ∀ {t}, SameOwing s t → owed t q g = owed s q g + counted none q g := fun h => owed_congr h q g
  cases hm with
  | answer => rfl
  | @slot k x hk hx =>
    have hset := owed_setSlot s k x q g
    rw [hk, slotOwing_of_takesSlot hx] at hset
    exact hset
  | combine mask data hi =>
    exact same (sameOwing_setEntry (by rw [hi]; rfl))
  | @allocate i cls line mask data hi =>
    have hset := owed_setEntry s i (.pending (newEntry s p tag cls line mask data)) q g
    rw [hi, entryOwing_newEntry] at hset
    exact hset
  | overlay mask data hc hmem hi =>
    exact same ((sameOwing_setEntry (by rw [hi]; rfl)).trans (sameOwing_of_frame rfl rfl rfl))
  | join mask data hc hi =>
    exact same ((sameOwing_setEntry (by rw [hi]; rfl)).trans (sameOwing_of_frame rfl rfl rfl))
  | abort reason hc => exact same (sameOwing_abort hE _ reason)
  | bOpen => exact same (sameOwing_of_frame rfl rfl rfl)
  | @bClose c o hc =>
    refine same (.trans (t := commitMembers o.members s) ⟨fun i => ?_, fun _ => rfl, fun _ => rfl⟩
      (sameOwing_of_frame (by simp) (by simp) (by simp)))
    rw [entry_commitMembers]
    split_ifs
    · exact entryOwing_commitMember s _
    · rfl
  | drop hc => exact same (sameOwing_of_frame (by simp) (by simp) (by simp))
  | cancel hc =>
    refine same ((sameOwing_releaseEntries fun i hi => kind_member_ne hE hc hi).trans ?_)
    exact sameOwing_of_frame (by simp) (by simp) (by simp)
  | @fence j k hj hwait =>
    have hset := owed_setFence s j (.waiting (newFence s k p tag)) q g
    rw [hj] at hset
    exact hset

/-- A request that is taken opens the account of its tag, and no other. -/
theorem due_moves (hE : EntriesExact s) (hm : Moves s p tag t) (q : Port) (g : ReqTag) :
    answersDue t q g = answersDue s q g + counted (some (p, tag)) q g := by
  obtain ⟨b, u, hmove, hblocks, hqueued⟩ := hm
  have howed := owed_move hE hmove q g
  rw [answersDue_eq, answersDue_eq, owed_congr (.of_tables hblocks.tables), howed]
  cases b with
  | true =>
    obtain ⟨a, ha⟩ := hqueued
    rw [queued_congr ha, queued_place]
    change queued s q g + counted (some (p, tag)) q g + (owed s q g + 0) = _
    omega
  | false =>
    rw [queued_congr hqueued]
    exact (Nat.add_assoc _ _ _).symm

/-- The ports but for their queues are as before. -/
theorem ports_moves (hm : Moves s p tag t) (q : Port) :
    (t.port q).head = (s.port q).head ∧ (t.port q).outstanding = (s.port q).outstanding := by
  obtain ⟨b, u, -, -, hqueued⟩ := hm
  cases b with
  | true =>
    obtain ⟨a, ha⟩ := hqueued
    rw [ha.head, ha.outstanding, place, port_setPort]
    split_ifs with hq
    · rw [hq]; exact ⟨rfl, rfl⟩
    · exact ⟨rfl, rfl⟩
  | false => exact ⟨hqueued.head q, hqueued.outstanding q⟩

end Acceptance

/-! ## The accounts of a port -/

/-- A port whose outstanding tags each have one response queued or owed, and no other tag has one; the tag of its head
request is not outstanding. -/
structure PortAccount (x : PortState) (owed : ReqTag → Nat) : Prop where
  due : ∀ g, x.queue.countP (fun r => r.tag == g) + owed g = if g ∈ x.outstanding then 1 else 0
  nodup : x.outstanding.Nodup
  head : ∀ r, x.head = some r → r.tag ∉ x.outstanding

/-- The account of tags but for the class of an entry with a reply tag. -/
def Accounts (s : State) : Prop := ∀ q, PortAccount (s.port q) (owed s q)

section OnePort

variable {x y : PortState} {f : ReqTag → Nat}

/-- Only head, outstanding tags and queue are read. -/
theorem PortAccount.congr (h : PortAccount x f) (hhead : y.head = x.head) (hout : y.outstanding = x.outstanding)
    (hqueue : y.queue = x.queue) : PortAccount y f where
  due g := by rw [hqueue, hout]; exact h.due g
  nodup := by rw [hout]; exact h.nodup
  head r hr := by rw [hout]; exact h.head r (hhead ▸ hr)

theorem mem_insertTag {tag g : ReqTag} {l : List ReqTag} : g ∈ insertTag tag l ↔ g = tag ∨ g ∈ l := by
  simp [insertTag]

theorem nodup_insertTag (tag : ReqTag) (l : List ReqTag) : (insertTag tag l).Nodup := (List.nodup_finRange 16).filter _

/-- The tag of an accepted request is outstanding, with one answer queued or owed (R125). -/
theorem PortAccount.accept (h : PortAccount x f) {r : Request} (hr : x.head = some r) (hout : y.outstanding = x.outstanding)
    {k : ReqTag → Nat}
    (hdue : ∀ g, y.queue.countP (fun a => a.tag == g) + k g =
      x.queue.countP (fun a => a.tag == g) + f g + if g = r.tag then 1 else 0) :
    PortAccount { y with head := none, outstanding := insertTag r.tag y.outstanding } k where
  due g := by
    have hnew := h.head r hr
    simp only [hdue, h.due, hout, mem_insertTag]
    by_cases hg : g = r.tag
    · subst hg
      simp [hnew]
    · simp [hg]
  nodup := nodup_insertTag _ _
  head := nofun

/-- A head request is kept where its tag is not outstanding (R123). -/
theorem PortAccount.arrive (h : PortAccount x f) {r : Request} (hr : r.tag ∉ x.outstanding) :
    PortAccount { x with head := some r } f where
  due := h.due
  nodup := h.nodup
  head _ hx := Option.some.inj hx ▸ hr

/-- A delivery closes the account of its tag (R132). -/
theorem PortAccount.deliver (h : PortAccount x f) {r : Response} {rest : List Response} (hqueue : x.queue = r :: rest) :
    PortAccount { x with queue := rest, outstanding := without r.tag x.outstanding } f where
  due g := by
    have hdue := h.due g
    rw [hqueue, List.countP_cons] at hdue
    simp only [without, List.mem_filter, bne_iff_ne, beq_iff_eq] at hdue ⊢
    by_cases hg : g = r.tag
    · subst hg
      simp only [if_true] at hdue
      simp only [ne_eq, not_true_eq_false, and_false, if_false]
      split_ifs at hdue <;> omega
    · rw [if_neg (Ne.symm hg)] at hdue
      simpa [hg] using hdue
  nodup := h.nodup.filter _
  head a ha hmem := h.head a ha (List.mem_of_mem_filter hmem)

/-- A port with nothing queued, owed or outstanding. -/
theorem portAccount_empty (hhead : x.head = none) (hout : x.outstanding = []) (hqueue : x.queue = []) (hf : ∀ g, f g = 0) :
    PortAccount x f where
  due g := by rw [hqueue, hf, hout]; rfl
  nodup := by rw [hout]; exact List.nodup_nil
  head r hr := nomatch hhead.symm.trans hr

end OnePort

section Accounts

variable {s t u : State} {p : Port} {tag : ReqTag}

theorem tagsAccounted_iff : TagsAccounted s ↔ (∀ i, RepliesThrough (s.entry i)) ∧ Accounts s := by
  constructor
  · intro h
    exact ⟨h.reply, fun q => ⟨fun g => (answersDue_eq s q g).symm.trans (h.due q g), h.nodup q, h.head q⟩⟩
  · rintro ⟨hreply, h⟩
    exact ⟨fun q g => (answersDue_eq s q g).trans ((h q).due g), fun q => (h q).nodup, hreply, fun q => (h q).head⟩

theorem Accounts.of_balanced (h : Accounts s) (hb : Balanced s t) : Accounts t := fun q => by
  have hq := h q
  refine ⟨fun g => ?_, by rw [hb.outstanding]; exact hq.nodup, fun r hr => ?_⟩
  · rw [hb.outstanding, ← hq.due g]
    exact ((answersDue_eq t q g).symm.trans (hb.due q g)).trans (answersDue_eq s q g)
  · rw [hb.outstanding]
    exact hq.head r ((hb.head q).symm.trans hr)

theorem Accounts.of_frame (h : Accounts s) (hports : SamePorts s t) (htables : SameTables s t) : Accounts t :=
  h.of_balanced (balanced_of_tables hports htables)

theorem Accounts.setPort (h : Accounts s) {n : Port} {x : PortState} (hx : PortAccount x (owed s n)) :
    Accounts (s.setPort n x) := fun q => by
  rw [port_setPort]
  split_ifs with hq
  · exact hq ▸ hx
  · exact h q

theorem Accounts.accept (h : Accounts s) (hE : EntriesExact s) {r : Request} (hr : (s.port p).head = some r)
    (ht : present s p r = some t) : Accounts (accepted p r.tag t) := fun q => by
  have hmoves := present_moves ht
  have hdue : ∀ g, queued t q g + owed t q g = queued s q g + owed s q g + counted (some (p, r.tag)) q g := fun g => by
    rw [← answersDue_eq, ← answersDue_eq, due_moves hE hmoves]
  obtain ⟨hhead, hout⟩ := ports_moves hmoves q
  rw [show (accepted p r.tag t).port q = _ from port_setPort t p q _]
  split_ifs with hq
  · subst hq
    refine (h q).accept hr hout fun g => (hdue g).trans ?_
    simp [queued, counted, eq_comm]
  · refine ⟨fun g => ?_, by rw [hout]; exact (h q).nodup, fun x hx => ?_⟩
    · have hcounted : counted (some (p, r.tag)) q g = 0 := if_neg (by simp [Ne.symm hq])
      rw [hout, ← (h q).due g]
      exact (hdue g).trans (by rw [hcounted]; rfl)
    · rw [hout]
      exact (h q).head x (hhead ▸ hx)

theorem Accounts.headArrives (h : Accounts s) (n : Port) (tag : ReqTag) (b : Option ReqBody) :
    Accounts (headArrives n tag b s) := by
  have hdiscard : Accounts (discardHead n s) := h.setPort ((h n).congr rfl rfl rfl)
  cases b with
  | none => exact hdiscard
  | some body =>
    simp only [Machine.headArrives]
    split_ifs with hout
    · exact hdiscard
    · exact h.setPort ((h n).arrive (by simpa using hout))

theorem Accounts.deliver (h : Accounts s) (n : Port) : Accounts (deliver n s) := by
  unfold Machine.deliver
  split
  next => exact h
  next r rest hqueue => exact h.setPort ((h n).deliver hqueue)

/-! ## Resets -/

/-- The records owe what they owed, but to port n. -/
structure Dropped (n : Port) (s t : State) : Prop where
  entries : ∀ i, entryOwing (t.entry i) = keptFrom n (entryOwing (s.entry i))
  slots : ∀ k, slotOwing (t.slot k) = keptFrom n (slotOwing (s.slot k))
  fences : ∀ j, fenceOwing (t.fence j) = keptFrom n (fenceOwing (s.fence j))

theorem owed_of_dropped_self {n : Port} (h : Dropped n s t) (g : ReqTag) : owed t n g = 0 := by
  have hnone : ∀ x, ¬ keptFrom n x = some (n, g) := fun x hx => (keptFrom_eq_some.mp hx).1 rfl
  have hentries : t.entries.count (entryOwes n g) = 0 := Table.count_eq_zero.mpr fun i => by
    rw [entryOwes_eq, show entryOwing (t.entries.get i) = _ from h.entries i, decide_eq_false (hnone _)]
  have hslots : t.slots.count (slotOwes n g) = 0 := Table.count_eq_zero.mpr fun k => by
    rw [slotOwes_eq, show slotOwing (t.slots.get k) = _ from h.slots k, decide_eq_false (hnone _)]
  have hfences : t.fences.count (fenceOwes n g) = 0 := Table.count_eq_zero.mpr fun j => by
    rw [fenceOwes_eq, show fenceOwing (t.fences.get j) = _ from h.fences j, decide_eq_false (hnone _)]
  rw [owed, hentries, hslots, hfences]

theorem owed_of_dropped {n q : Port} (h : Dropped n s t) (hq : q ≠ n) (g : ReqTag) : owed t q g = owed s q g := by
  have hkept : ∀ x, decide (keptFrom n x = some (q, g)) = decide (x = some (q, g)) := fun x =>
    decide_eq_decide.mpr (keptFrom_eq_some.trans (and_iff_right hq))
  have hentries : t.entries.count (entryOwes q g) = s.entries.count (entryOwes q g) := Table.count_congr fun i => by
    rw [entryOwes_eq, entryOwes_eq, show entryOwing (t.entries.get i) = _ from h.entries i, hkept, State.entry]
  have hslots : t.slots.count (slotOwes q g) = s.slots.count (slotOwes q g) := Table.count_congr fun k => by
    rw [slotOwes_eq, slotOwes_eq, show slotOwing (t.slots.get k) = _ from h.slots k, hkept, State.slot]
  have hfences : t.fences.count (fenceOwes q g) = s.fences.count (fenceOwes q g) := Table.count_congr fun j => by
    rw [fenceOwes_eq, fenceOwes_eq, show fenceOwing (t.fences.get j) = _ from h.fences j, hkept, State.fence]
  rw [owed, hentries, hslots, hfences, owed]

/-- A THROUGH entry of the port loses its reply tag (R21), and no other entry has one. -/
theorem entryOwing_dropReply {e : Entry} (he : RepliesThrough e) (n : Port) :
    entryOwing (e.dropReply n) = keptFrom n (entryOwing e) := by
  have hcommitted : ∀ c, e.committed? = some c →
      ((if c.port = n ∧ c.cls = .through then { c with replyTag := none } else c).replyTag.map fun g =>
        ((if c.port = n ∧ c.cls = .through then { c with replyTag := none } else c).port, g)) =
      keptFrom n (c.replyTag.map fun g => (c.port, g)) := by
    intro c hc
    cases hreply : c.replyTag with
    | none => split_ifs <;> simp [hreply, keptFrom]
    | some g =>
      have hcls : c.cls = .through := he c hc (by rw [hreply]; exact nofun)
      by_cases hport : c.port = n <;> simp [hport, hcls, hreply, keptFrom, Option.filter]
  cases e with
  | free | member => rfl
  | pending c | issued c => exact hcommitted c rfl

theorem entryOwing_portReset (hE : EntriesExact s) (hreplies : ∀ i, RepliesThrough (s.entry i)) (n : Port) (i : EntryIx) :
    entryOwing ((portResetNow n s).entry i) = keptFrom n (entryOwing (s.entry i)) := by
  have hfreed : RepliesThrough (if i ∈ membersOfPort s n then Entry.free else s.entry i) := by
    split_ifs
    · exact nofun
    · exact hreplies i
  rw [entry_portReset, entryOwing_dropReply (repliesThrough_unblocked hfreed _), entryOwing_unblocked]
  split_ifs with hi
  · obtain ⟨c, o, hc, -, hmem⟩ := mem_membersOfPort.mp hi
    rw [entryOwing_of_not_committed (kind_member_ne hE hc hmem)]
    rfl
  · rfl

theorem port_portReset (n : Port) (s : State) (q : Port) :
    (portResetNow n s).port q = if q = n then (s.port n).afterReset else s.port q := by
  simp only [portResetNow, State.port, afterRelease_frame, Table.get_set]
  rfl

/-- A port reset closes every account of its port (R135). -/
theorem Accounts.portReset (h : Accounts s) (hE : EntriesExact s) (hreplies : ∀ i, RepliesThrough (s.entry i)) (n : Port) :
    Accounts (portResetNow n s) := fun q => by
  have hdropped : Dropped n s (portResetNow n s) :=
    ⟨entryOwing_portReset hE hreplies n, fun k => by rw [slot_portReset, slotOwing_portReset],
      fun j => by rw [fence_portReset, fenceOwing_portReset]⟩
  rw [port_portReset]
  split_ifs with hq
  · subst hq
    exact portAccount_empty rfl rfl rfl (owed_of_dropped_self hdropped)
  · rw [funext (owed_of_dropped hdropped hq)]
    exact h q

theorem owed_reset (q : Port) (g : ReqTag) : owed State.reset q g = 0 := by
  have hentries : State.reset.entries.count (entryOwes q g) = 0 := Table.count_eq_zero.mpr fun i => by
    rw [State.reset, Table.get_replicate]; rfl
  have hslots : State.reset.slots.count (slotOwes q g) = 0 := Table.count_eq_zero.mpr fun k => by
    rw [State.reset, Table.get_replicate]; rfl
  have hfences : State.reset.fences.count (fenceOwes q g) = 0 := Table.count_eq_zero.mpr fun j => by
    rw [State.reset, Table.get_replicate]; rfl
  rw [owed, hentries, hslots, hfences]

theorem accounts_deviceReset (s : State) : Accounts (deviceResetNow s) := fun q => by
  have hport : (deviceResetNow s).port q = { PortState.reset with held := (s.port q).held } := Table.get_mapIx _ _ _
  rw [hport]
  exact portAccount_empty rfl rfl rfl (owed_reset q)

theorem accounts_reset : Accounts State.reset := fun q => by
  rw [State.port, State.reset, Table.get_replicate]
  exact portAccount_empty rfl rfl rfl (owed_reset q)

end Accounts

/-! ## Every step -/

section Steps

variable {s t : State}

theorem balanced_issue {g : Grant} {a : AccessTag} (hg : chosenGrant s = some g) : Balanced s (issueGrant g a s) := by
  obtain ⟨i, howner, hi⟩ | ⟨p, k, howner, hk⟩ := chosen_some hg
  · obtain ⟨c, hc, -⟩ := eligible_some hi
    refine balanced_of (.of_ports (by simp [issueGrant])) ?_
    rw [issueGrant, howner, issueOwner, issueEntry_of_pending hc]
    refine .trans (t := s.setEntry i (.issued c a)) (sameOwing_setEntry (by rw [hc]; rfl)) ⟨fun _ => rfl, fun j => ?_, fun _ => rfl⟩
    exact (congrArg slotOwing (slot_dropWaits i (s.setEntry i (.issued c a)) j)).trans (slotOwing_dropWait i _)
  · obtain ⟨r, hr, -⟩ := readCandidate_ready hk
    refine balanced_of (.of_ports (by simp [issueGrant])) ?_
    rw [issueGrant, howner, issueOwner, issueSlot_of_ready hr]
    refine ⟨fun i => ?_, fun j => ?_, fun _ => rfl⟩
    · exact (congrArg entryOwing (entry_unblock [k] (s.setSlot k (.issued r a false)) i)).trans
        (entryOwing_unblocked [k] _)
    · change slotOwing ((s.setSlot k (.issued r a false)).slot j) = _
      rw [slot_setSlot]
      split_ifs with hj
      · rw [hj, hr]
        rfl
      · rfl

theorem balanced_response (hreplies : ∀ i, RepliesThrough (s.entry i)) (a : AccessTag) (st : MemStatus) (d : BitVec 256) :
    Balanced s (responseArrives a st d s) := by
  have hstray : ∀ u : State, Balanced u { u with stray := true } := fun _ =>
    balanced_of_tables (.of_ports rfl) ⟨rfl, rfl, rfl, rfl, rfl, rfl⟩
  unfold responseArrives
  split
  · exact balanced_endAccess hreplies a _
  · exact (balanced_setAccess s a .free).trans (hstray _)
  · exact hstray s

theorem balanced_expire (hreplies : ∀ i, RepliesThrough (s.entry i)) (a : AccessTag) : Balanced s (expireAccess a s) := by
  unfold expireAccess
  split_ifs
  · exact balanced_endAccess hreplies a _
  · exact .refl s

theorem balanced_advance (s : State) : Balanced s (advanceTimers s) :=
  balanced_of (.of_ports (by simp))
    ⟨fun i => by rw [entry_advance, entryOwing_tick], fun _ => rfl, fun _ => rfl⟩

theorem balanced_clear (s : State) : Balanced s (clearAllFlags s) := by
  have hport : ∀ q, (clearAllFlags s).port q = { s.port q with violation := false, portFault := false } := fun q =>
    Table.get_mapIx _ _ _
  refine balanced_of_tables ⟨fun q => ?_, fun q => ?_, fun q => ?_⟩ ⟨rfl, rfl, rfl, rfl, rfl, rfl⟩ <;> rw [hport]

theorem ports_takeFaultPop (s : State) : (takeFaultPop s).1.ports = s.ports := by
  unfold takeFaultPop
  split <;> rfl

/-- A mode command moves no record and no port. -/
theorem balanced_command {c : LinkCommand} (hc : c = .enable ∨ c = .quiesce ∨ c = .resume ∨ c = .disable) :
    Balanced s (takeCommand c s).1 :=
  balanced_of_tables (.of_ports (ports_of_mode_command hc)) (sameTables_of_mode_command hc rfl)

/-- Every step keeps lists, reply tags and accounts together. -/
theorem kept_accounts : Kept fun s => (EntriesExact s ∧ ∀ i, RepliesThrough (s.entry i)) ∧ Accounts s := by
  have k := conserved_repliesThrough.kept kept_entriesExact
  have of_balanced : ∀ {s t : State}, Balanced s t → EntriesExact t ∧ (∀ i, RepliesThrough (t.entry i)) →
      (EntriesExact s ∧ ∀ i, RepliesThrough (s.entry i)) ∧ Accounts s →
      (EntriesExact t ∧ ∀ i, RepliesThrough (t.entry i)) ∧ Accounts t := fun hb hk hs => ⟨hk, hs.2.of_balanced hb⟩
  have plain : ∀ {s t : State}, t.ports = s.ports → t.entries = s.entries → t.commitOrder = s.commitOrder →
      t.slots = s.slots → t.contexts = s.contexts → t.fences = s.fences → t.accesses = s.accesses → Balanced s t :=
    fun h0 h1 h2 h3 h4 h5 h6 => balanced_of_tables (.of_ports h0) ⟨h1, h2, h3, h4, h5, h6⟩
  exact {
    accept := fun s p r t hs hg hh hp => ⟨k.accept s p r t hs.1 hg hh hp, hs.2.accept hs.1.1 hh hp⟩
    head := fun s n tag b hs hn => ⟨k.head s n tag b hs.1 hn, hs.2.headArrives n tag b⟩
    deliver := fun s n hs => ⟨k.deliver s n hs.1, hs.2.deliver n⟩
    issue := fun s t g hs ht hg => of_balanced (balanced_issue hg) (k.issue s t g hs.1 ht hg) hs
    response := fun s t st d hs => of_balanced (balanced_response hs.1.2 t st d) (k.response s t st d hs.1) hs
    expire := fun s t hs => of_balanced (balanced_expire hs.1.2 t) (k.expire s t hs.1) hs
    abort := fun s c reason hs => of_balanced (balanced_of (.of_ports (by simp)) (sameOwing_abort hs.1.1 c reason))
      (k.abort s c reason hs.1) hs
    advance := fun s hs => of_balanced (balanced_advance s) (k.advance s hs.1) hs
    portReset := fun s n hs => ⟨k.portReset s n hs.1, hs.2.portReset hs.1.1 hs.1.2 n⟩
    held := fun s n b hs => ⟨k.held s n b hs.1, hs.2.setPort ((hs.2 n).congr rfl rfl rfl)⟩
    deviceReset := fun s hs => ⟨k.deviceReset s hs.1, accounts_deviceReset s⟩
    released := fun s strap hs =>
      of_balanced (s := s) (plain rfl rfl rfl rfl rfl rfl rfl) (k.released s strap hs.1) hs
    link := fun s l hs => of_balanced (s := s) (plain rfl rfl rfl rfl rfl rfl rfl) (k.link s l hs.1) hs
    freeCount := fun s n hs => of_balanced (s := s) (plain rfl rfl rfl rfl rfl rfl rfl) (k.freeCount s n hs.1) hs
    divider := fun s n hs => of_balanced (s := s) (plain rfl rfl rfl rfl rfl rfl rfl) (k.divider s n hs.1) hs
    queue := fun s q hs => of_balanced (s := s) (plain rfl rfl rfl rfl rfl rfl rfl) (k.queue s q hs.1) hs
    enable := fun s hs => of_balanced (balanced_command (c := .enable) (.inl rfl)) (k.enable s hs.1) hs
    quiesce := fun s hs => of_balanced (balanced_command (c := .quiesce) (.inr (.inl rfl))) (k.quiesce s hs.1) hs
    resume := fun s hs => of_balanced (balanced_command (c := .resume) (.inr (.inr (.inl rfl)))) (k.resume s hs.1) hs
    disable := fun s hs => of_balanced (balanced_command (c := .disable) (.inr (.inr (.inr rfl)))) (k.disable s hs.1) hs
    pop := fun s hs =>
      of_balanced (balanced_of_tables (.of_ports (ports_takeFaultPop s)) (sameBlocks_takeFaultPop s).tables) (k.pop s hs.1) hs
    clear := fun s hs => of_balanced (balanced_clear s) (k.clear s hs.1) hs
    tags := fun s hs => of_balanced (balanced_of (s := s) (.of_ports rfl) ⟨fun _ => rfl, fun _ => rfl, fun _ => rfl⟩)
      (k.tags s hs.1) hs
    config := fun s i v hs => of_balanced (balanced_of_tables (.of_ports (ports_writeConfig i v s)) (sameTables_writeConfig i v s))
      (k.config s i v hs.1) hs
    window := fun s w part v hs => of_balanced
      (balanced_of_tables (.of_ports (by rw [writeWindow_eq])) (sameTables_writeWindow w part v s))
      (k.window s w part v hs.1) hs }

end Steps

/-- Settles O60: an event that takes an answer from the records places it, and only a taken head request opens an
account. -/
theorem stepKeepsTagsAccounted : Obligations.StepKeepsTagsAccounted := fun _ _ hE hT hstep => by
  obtain ⟨hreplies, hA⟩ := tagsAccounted_iff.mp hT
  obtain ⟨⟨-, hreplies'⟩, hA'⟩ := kept_accounts.step ⟨⟨hE, hreplies⟩, hA⟩ hstep
  exact tagsAccounted_iff.mpr ⟨hreplies', hA'⟩

end Sys2Proof.Account
end

section
/-! The invariants at the device reset state. -/

namespace Sys2Proof.AtReset

open Sys2Proof.Machine Sys2Proof.Safety

/-- Settles O51: every invariant that the events keep holds of the state they start from. -/
theorem invariantsHoldAtReset : Obligations.InvariantsHoldAtReset :=
  ⟨ExactLists.entriesExact_reset, IssueRuns.conserved_issueOrder.reset, Owners.conserved_accessOwners.reset,
    Seats.conserved_lanesAndRanks.reset, Bounds.conserved_memberBounds.reset, Marks.configLegal_reset,
    Marks.conserved_pressureAgrees.reset, ModeLaw.conserved_modeAgrees.reset, Holds.conserved_holdsLive.reset,
    Holds.conserved_waitSetsLive.reset,
    Account.tagsAccounted_iff.mpr ⟨Account.conserved_repliesThrough.reset, Account.accounts_reset⟩⟩

end Sys2Proof.AtReset
end

section
/-! The queue, RST_N and the resets: every command is answered by a state whose queue is the one before (log 2), what holds
while RST_N is asserted (R178), and what the resets leave (R135 to R138, R178). -/

namespace Sys2Proof.Resets

open Sys2Proof.Machine Sys2Proof.Safety Sys2Proof.Events

/-- Settles O1: it is the first branch of `step`. -/
theorem stepRunsTheFrontCommand : Obligations.StepRunsTheFrontCommand := fun _ _ _ => rfl

section Queue

variable {s : State}

/-- Settles O2: CLK divides below TBDIV and ticks at it. -/
theorem emptyQueuePassesOneClockPeriod : Obligations.EmptyQueuePassesOneClockPeriod := by
  intro s hs
  have hstep : step s = whileRunning s clkPeriod := by simp only [step, hs]
  refine ⟨fun hr => ?_, fun hr hlt => ?_, fun hr hle => ?_⟩
  · rw [hstep, whileRunning, if_pos hr]
  · rw [hstep, whileRunning_of hr, clkPeriod, if_pos hlt]
  · rw [hstep, whileRunning_of hr, clkPeriod, if_neg (by omega)]
    exact (whileRunning_of hr tickNow).symm

/-- `t` has the command queue and the link of `s`. -/
def SameQueueAndLink (s t : State) : Prop := t.pending = s.pending ∧ t.link = s.link

theorem takeCommand_sameQueueAndLink (c : LinkCommand) (s : State) : SameQueueAndLink s (takeCommand c s).1 := by
  cases c with
  | abortBundles | portReset => exact ⟨by simp [takeCommand], by simp [takeCommand]⟩
  | clearFlags | releaseTags => exact ⟨rfl, rfl⟩
  | enable => simp only [takeCommand, takeEnable]; split_ifs <;> exact ⟨rfl, rfl⟩
  | resume => simp only [takeCommand, takeResume]; split_ifs <;> exact ⟨rfl, rfl⟩
  | disable => simp only [takeCommand, takeDisable]; split_ifs <;> exact ⟨rfl, rfl⟩
  | faultPop => simp only [takeCommand, takeFaultPop]; split <;> exact ⟨rfl, rfl⟩
  | quiesce =>
    simp only [takeCommand, takeQuiesce]
    split_ifs
    · exact ⟨by simp, by simp⟩
    · exact ⟨rfl, rfl⟩

theorem writeConfig_sameQueueAndLink (i : ConfigItem) (v : Word) (s : State) : SameQueueAndLink s (writeConfig i v s).1 := by
  rw [itemsChanged_writeConfig i v s]
  exact ⟨rfl, rfl⟩

theorem writeWindow_sameQueueAndLink (w : Fin 8) (part : WindowPart) (v : Word) (s : State) :
    SameQueueAndLink s (writeWindow w part v s).1 := by
  rw [writeWindow_eq]
  exact ⟨rfl, rfl⟩

/-- An offered value changes neither the queue nor the link. -/
theorem offerValue_sameQueueAndLink (o : MgmtObject) (v : Word) (s : State) : SameQueueAndLink s (offerValue o v s).1 := by
  unfold offerValue
  split
  · split
    · exact takeCommand_sameQueueAndLink _ s
    · exact ⟨rfl, rfl⟩
  · exact writeConfig_sameQueueAndLink _ v s
  · exact writeWindow_sameQueueAndLink _ _ v s
  · exact ⟨rfl, rfl⟩

theorem pending_takeCommand (c : LinkCommand) (s : State) : (takeCommand c s).1.pending = s.pending :=
  (takeCommand_sameQueueAndLink c s).1

theorem pending_writeConfig (i : ConfigItem) (v : Word) (s : State) : (writeConfig i v s).1.pending = s.pending :=
  (writeConfig_sameQueueAndLink i v s).1

theorem pending_writeWindow (w : Fin 8) (part : WindowPart) (v : Word) (s : State) :
    (writeWindow w part v s).1.pending = s.pending := (writeWindow_sameQueueAndLink w part v s).1

theorem pending_objectWriteEvent (x : BitVec 16) (v : Word) (s : State) : (objectWriteEvent x v s).pending = s.pending :=
  (offerValue_sameQueueAndLink (objectAt x) v s).1

theorem pending_dataByte (b : Byte) (s : State) : (dataByte b s).pending = s.pending := by
  unfold dataByte
  split
  · simp [pending_objectWriteEvent]
  · rfl
  · rfl

/-- A command of the running part is answered by what it does, or by the state as it was. -/
theorem whileRunning_next {f : State → State} (hf : (f s).pending = s.pending) :
    ∃ t, whileRunning s f = .next t ∧ t.pending = s.pending := by
  refine ⟨if s.inReset then s else f s, rfl, ?_⟩
  split_ifs
  · rfl
  · exact hf

theorem ite_pending {b : Bool} {t u : State} (ht : t.pending = s.pending) (hu : u.pending = s.pending) :
    (if b then t else u).pending = s.pending := by
  split_ifs
  · exact ht
  · exact hu

/-- Settles O3: every event leaves the queue. -/
theorem everyCommandAnswersNext : Obligations.EveryCommandAnswersNext := by
  intro c s
  have hcommand : ∀ c, ∃ t, whileRunning s (commandEvent c) = .next t ∧ t.pending = s.pending := fun c =>
    whileRunning_next (f := commandEvent c) (pending_takeCommand c s)
  have hconfig : ∀ (i : ConfigItem) (x : BitVec 16) (v : Word),
      ∃ t, whileRunning s (fun s => recordResult x (writeConfig i v s)) = .next t ∧ t.pending = s.pending :=
    fun i x v => whileRunning_next (f := fun s => recordResult x (writeConfig i v s)) (pending_writeConfig i v s)
  have haccept : ∀ row, ∃ t, whileRunning s (acceptWhere row) = .next t ∧ t.pending = s.pending := fun row =>
    whileRunning_next (by simp)
  cases c with
  | headRequest => exact whileRunning_next (ite_pending (by simp) rfl)
  | forwardedRead | orderedRead | plainWrite | memberWrite | fencePort | fenceAll | bOpen | bClose | bCancel =>
    exact haccept _
  | responseDelivery | issue | memoryResponse | tick | linkStart | linkIndexByte | linkReadByte | linkStop | sclEdge =>
    exact whileRunning_next (by simp)
  | ageReached => exact whileRunning_next (f := fun s => s) rfl
  | idleExpiry | accessTimeout | busTimeout => exact whileRunning_next (ite_pending (by simp) rfl)
  | prstAssert n => exact ⟨_, rfl, ite_pending (by simp) (by simp)⟩
  | prstRelease n => exact ⟨_, rfl, by simp⟩
  | deviceReset => exact ⟨_, rfl, rfl⟩
  | deviceResetRelease v => exact ⟨_, rfl, ite_pending rfl rfl⟩
  | linkDataByte b => exact whileRunning_next (pending_dataByte b s)
  | enable | quiesce | resume | disable | abortBundles | portReset | faultPop | clearFlags | releaseTags =>
    exact hcommand _
  | highMark v => exact hconfig .highMark _ v
  | lowMark v => exact hconfig .lowMark _ v
  | ageLimit v => exact hconfig .ageLimit _ v
  | idleLimit v => exact hconfig .idleLimit _ v
  | memTimeout v => exact hconfig .memTimeout _ v
  | tbdiv v => exact hconfig .tbdiv _ v
  | alertMask v => exact hconfig .alertMask _ v
  | windowObject w part v =>
    exact whileRunning_next (f := fun s => recordResult (windowIndex w part) (writeWindow w part v s))
      (pending_writeWindow w part v s)
  | objectWrite x v => exact whileRunning_next (pending_objectWriteEvent x v s)

end Queue

/-! ## RST_N -/

/-- But for the resets and the levels of PRST_N, a command takes place while the part runs. -/
theorem exec_of_running {c : Instr} (ha : ∀ n, c ≠ .prstAssert n) (hr : ∀ n, c ≠ .prstRelease n) (hd : c ≠ .deviceReset)
    (hv : ∀ v, c ≠ .deviceResetRelease v) (s : State) :
    ∃ t, exec c s = .next (if s.inReset then s else t) := by
  cases c with
  | prstAssert n => exact absurd rfl (ha n)
  | prstRelease n => exact absurd rfl (hr n)
  | deviceReset => exact absurd rfl hd
  | deviceResetRelease v => exact absurd rfl (hv v)
  | _ => exact ⟨_, rfl⟩

/-- Settles O4: every event and every output asks first whether RST_N is asserted. -/
theorem underDeviceResetNothingHappens : Obligations.UnderDeviceResetNothingHappens := by
  intro s hs
  refine ⟨fun c ha hr hd hv => ?_, fun n => ?_, fun n => ⟨?_, ?_⟩, ?_, rfl, ?_, fun b => ?_, ?_, ?_⟩
  · obtain ⟨t, ht⟩ := exec_of_running ha hr hd hv s
    rw [ht, if_pos hs]
  · exact congrArg Host.Outcome.next (if_pos hs)
  · simp [takesRequest, hs]
  · simp [responseSignals, offeredResponse, hs, quietResponse]
  · simp [offeredAccess, hs]
  · simp [alertDriven, hs]
  · simp [acksAddress, hs]
  · simp [acksByte, hs]
  · simp [byteSent, hs]

theorem port_deviceReset (s : State) (n : Port) :
    (deviceResetNow s).port n = { PortState.reset with held := (s.port n).held } := Table.get_mapIx _ _ _

/-- Settles O5: the device reset state is written out field by field. -/
theorem deviceResetAndRelease : Obligations.DeviceResetAndRelease := by
  refine ⟨fun s => ⟨deviceResetNow s, rfl, rfl, port_deviceReset s, rfl, Table.get_replicate _, Table.get_replicate _, rfl,
    rfl, Table.get_replicate _, Table.get_replicate _, Table.get_replicate _, rfl, Table.get_replicate _, rfl, rfl, rfl,
    rfl, rfl, rfl, rfl, rfl, rfl, rfl, rfl, rfl⟩, fun s v => ⟨fun hs => ⟨?_, rfl⟩, fun hs => ?_⟩,
    deviceResetNow State.reset, rfl, ?_⟩
  · exact congrArg Host.Outcome.next (if_pos hs)
  · exact congrArg Host.Outcome.next (if_neg (by simp [hs]))
  · have hports : (deviceResetNow State.reset).ports = State.reset.ports := Table.ext_get fun n => by
      rw [show (deviceResetNow State.reset).ports.get n = _ from port_deviceReset State.reset n, State.port]
      simp [State.reset, PortState.reset]
    change Host.Outcome.next { State.reset with ports := (deviceResetNow State.reset).ports } = _
    rw [hports]

/-! ## Port reset -/

section PortReset

variable {n : Port} {s : State}

theorem memberOf_iff {i : EntryIx} : MemberOf s n i ↔ i ∈ membersOfPort s n := ExactLists.mem_membersOfPort.symm

theorem contains_unissuedSlots (s : State) (n : Port) (k : SlotIx) :
    (unissuedSlots s n).contains k = (s.slot k).unissued?.any fun r => r.port == n := by
  rw [Bool.eq_iff_iff, List.contains_iff_mem, unissuedSlots, Table.mem_positions, State.slot]

/-- What a port reset leaves of a committed entry (R21, R59). -/
def resetCommitted (n : Port) (s : State) (c : Committed) : Committed :=
  { c with
    replyTag := if c.port = n ∧ c.cls = .through then none else c.replyTag
    blockedBy := c.blockedBy.filter fun k => !((s.slot k).unissued?.any fun r => r.port == n) }

theorem entry_portReset_of_not_member {i : EntryIx} (hi : ¬ MemberOf s n i) :
    (portResetNow n s).entry i = (s.entry i).mapCommitted (resetCommitted n s) := by
  have hcommitted : ∀ c : Committed,
      (if c.port = n ∧ c.cls = .through then
        { c with blockedBy := c.blockedBy.filter fun k => !(unissuedSlots s n).contains k, replyTag := none }
      else { c with blockedBy := c.blockedBy.filter fun k => !(unissuedSlots s n).contains k }) = resetCommitted n s c := by
    intro c
    simp only [contains_unissuedSlots, resetCommitted]
    split_ifs <;> rfl
  rw [entry_portReset, if_neg (mt memberOf_iff.mpr hi)]
  cases s.entry i with
  | free | member => rfl
  | pending c => exact congrArg Entry.pending (hcommitted c)
  | issued c t => exact congrArg (Entry.issued · t) (hcommitted c)

/-- A port reset changes the port's own records, the pressure flag and the mode. -/
theorem portReset_eq (n : Port) (s : State) :
    portResetNow n s =
      { s with
        ports := (portResetNow n s).ports, entries := (portResetNow n s).entries, slots := (portResetNow n s).slots
        contexts := (portResetNow n s).contexts, fences := (portResetNow n s).fences
        pressure := (portResetNow n s).pressure, mode := (portResetNow n s).mode
        modeEvent := (portResetNow n s).modeEvent } := by
  refine (afterRelease_eq _).trans ?_
  simp only [portResetNow, afterRelease_frame]
  rfl

/-- Settles O6: by PRST_N or by the command, the port reset is one event. -/
theorem portResetAndRelease : Obligations.PortResetAndRelease := by
  refine fun s n => ⟨fun hs => ⟨portResetNow n s, ?_, Modes.exec_of_takeCommand hs rfl rfl, ?_, fun q hq => ?_,
    fun i hi => ?_, fun i hi => entry_portReset_of_not_member hi, fun k r hk => ?_, fun k r a o hk => ?_, fun k hk => ?_,
    ctx_portReset n s, fun j w hj => ?_, fun j hj => ?_, ?_, ?_, portReset_eq n s⟩, rfl⟩
  · exact congrArg Host.Outcome.next (if_neg (by simp [hs]))
  · exact (Account.port_portReset n s n).trans (if_pos rfl)
  · exact (Account.port_portReset n s q).trans (if_neg hq)
  · rw [entry_portReset, if_pos (memberOf_iff.mp hi)]
    rfl
  · rw [slot_portReset]
    obtain hk | hk := hk <;> rw [hk] <;> rfl
  · rw [slot_portReset, hk]
    rfl
  · rw [slot_portReset, hk]
    rfl
  · rw [fence_portReset, hj]
    rfl
  · rw [fence_portReset, hj]
    rfl
  · exact afterRelease_pressure s _ (by simp) (by simp)
  · exact afterRelease_modeFollows s _ (by simp) (by simp)

end PortReset

end Sys2Proof.Resets
end

section
/-! Requester ports and the intake (chapter 7): the channels' codes (R121), the head request (R122, R123), the scan (R130),
what makes a head request wait (R129), the format checks (R126) and the delivery of a response (R132). -/

namespace Sys2Proof.Intake

open Sys2Proof.Machine Sys2Proof.Safety

/-! ## Request codes -/

theorem writeLane_eq_none : ∀ code, writeLane code = none ↔ code = 3 := by decide

theorem bundleLane_eq_none : ∀ code, bundleLane code = none ↔ code = 0 ∨ code = 3 := by decide

theorem kind_cases : ∀ kind : BitVec 3,
    kind = 0 ∨ kind = 1 ∨ kind = 2 ∨ kind = 3 ∨ kind = 4 ∨ kind = 5 ∨ kind = 6 ∨ kind = 7 := by decide

/-- A record spells no request where a code that it uses is undefined (R123). -/
theorem requestBody_eq_none {kind : BitVec 3} {addr : Addr} {len : BitVec 6} {lane : BitVec 2} {mask : ByteMask}
    {data : BitVec 256} :
    requestBody kind addr len lane mask data = none ↔
      kind = 7 ∨ (kind = 1 ∧ lane = 3) ∨ ((kind = 4 ∨ kind = 5 ∨ kind = 6) ∧ (lane = 0 ∨ lane = 3)) := by
  obtain rfl | rfl | rfl | rfl | rfl | rfl | rfl | rfl := kind_cases kind <;>
    simp [requestBody, writeLane_eq_none, bundleLane_eq_none]

section Head

variable {s : State} {n : Port} {kind : BitVec 3} {tag : ReqTag} {addr : Addr} {len : BitVec 6} {lane : BitVec 2}
  {mask : ByteMask} {data : BitVec 256}

theorem takesRequest_iff (hs : s.inReset = false) :
    takesRequest s n = true ↔ (s.port n).held = false ∧ (s.port n).head = none := by
  simp [takesRequest, hs]

theorem exec_headRequest_ignored (hs : s.inReset = false) (hn : (s.port n).held = true ∨ (s.port n).head ≠ none) :
    exec (.headRequest n kind tag addr len lane mask data) s = .next s := by
  have hno : ¬ takesRequest s n = true := by
    rw [takesRequest_iff hs]
    rintro ⟨hheld, hhead⟩
    obtain h | h := hn
    · exact nomatch h.symm.trans hheld
    · exact h hhead
  exact (whileRunning_of hs _).trans (congrArg Host.Outcome.next (if_neg hno))

theorem exec_headRequest (hs : s.inReset = false) (hheld : (s.port n).held = false) (hhead : (s.port n).head = none) :
    exec (.headRequest n kind tag addr len lane mask data) s =
      .next (headArrives n tag (requestBody kind addr len lane mask data) s) :=
  (whileRunning_of hs _).trans (congrArg Host.Outcome.next (if_pos ((takesRequest_iff hs).mpr ⟨hheld, hhead⟩)))

theorem headArrives_discarded {b : Option ReqBody} (h : tag ∈ (s.port n).outstanding ∨ b = none) :
    headArrives n tag b s = discardHead n s := by
  cases b with
  | none => rfl
  | some body =>
    obtain h | h := h
    · exact if_pos (by simpa using h)
    · cases h

theorem headArrives_kept {body : ReqBody} (h : tag ∉ (s.port n).outstanding) :
    headArrives n tag (some body) s = s.setPort n { s.port n with head := some { tag := tag, body := body } } :=
  if_neg (by simpa using h)

end Head

/-- Settles O7: the codes are read as R121 lists them, and the record is checked as R123 says. -/
theorem headRequestKeptOrDiscarded : Obligations.HeadRequestKeptOrDiscarded := by
  refine fun s n kind tag addr len lane mask data => ⟨requestBody_eq_none, rfl, rfl, rfl, rfl, fun i => ?_, rfl, rfl, rfl,
    rfl, rfl, rfl, rfl, rfl, fun hs => ⟨exec_headRequest_ignored hs, fun hheld hhead => ⟨fun h => ?_, fun body htag hb => ?_⟩⟩⟩
  · exact Table.get_ofFn _ i
  · rw [exec_headRequest hs hheld hhead, headArrives_discarded h]
    rfl
  · rw [exec_headRequest hs hheld hhead, hb, headArrives_kept htag]
    rfl

/-! ## Responses -/

/-- The signals of an offered response. -/
theorem responseSignals_of_queue {s : State} {n : Port} (hs : s.inReset = false) {r : Response} {rest : List Response}
    (h : (s.port n).queue = r :: rest) :
    responseSignals s n =
      { valid := true, tag := BitVec.ofNat 4 r.tag.val, status := BitVec.ofNat 3 (statusCode r.answer),
        reason := BitVec.ofNat 5 (reasonCode r.answer), source := BitVec.ofNat 2 (sourceCode r.answer),
        data := dataField r.answer } := by
  simp [responseSignals, offeredResponse, hs, h]

theorem exec_responseDelivery {s : State} (hs : s.inReset = false) (n : Port) :
    exec (.responseDelivery n) s = .next (deliver n s) := whileRunning_of hs _

/-- Settles O8: the signals are the codes of R121, and a delivery takes the oldest response. -/
theorem responseDeliveryFreesTheTag : Obligations.ResponseDeliveryFreesTheTag := by
  refine fun s n hs => ⟨by simp [offeredResponse, hs], fun hempty => ⟨?_, ?_⟩, fun r rest m hqueue hm => ?_⟩
  · simp [responseSignals, offeredResponse, hs, hempty, quietResponse]
  · rw [exec_responseDelivery hs, deliver, hempty]
  · rw [responseSignals_of_queue hs hqueue] at hm
    subst hm
    refine ⟨rfl, ?_, fun ha => ?_, fun bytes source ha => ?_, fun why ha => ?_, fun why ha => ?_, fun why ha => ?_,
      fun ha => ?_, fun why ha => ?_, ?_⟩
    · exact Nat.mod_eq_of_lt r.tag.isLt
    · rw [ha]; exact ⟨rfl, rfl, rfl, rfl⟩
    · rw [ha]
      refine ⟨rfl, rfl, by cases source <;> rfl, fun i hi => fieldOfBytes_byte bytes i hi⟩
    · rw [ha]; exact ⟨rfl, rfl, rfl, by cases why <;> rfl⟩
    · rw [ha]; exact ⟨rfl, rfl, rfl, by cases why <;> rfl⟩
    · rw [ha]; exact ⟨rfl, rfl, rfl, by cases why <;> rfl⟩
    · rw [ha]; exact ⟨rfl, rfl, rfl, rfl⟩
    · rw [ha]; exact ⟨rfl, rfl, rfl, by cases why <;> rfl⟩
    · rw [exec_responseDelivery hs, deliver, hqueue]
      rfl

/-! ## The scan -/

section Scan

variable {s : State} {p : Port}

theorem takeable_iff : takeable s p = true ↔
    (s.port p).held = false ∧ (∃ r, (s.port p).head = some r) ∧ headWaiting s p = false := by
  cases hhead : (s.port p).head with
  | none => simp [takeable, hhead]
  | some r => simp [takeable, headWaiting, hhead, Option.isSome_iff_ne_none]

theorem granted_eq : granted s = ((List.finRange 4).map (s.intakePtr + ·)).findSome? (Option.guard (takeable s)) := by
  rw [List.findSome?_guard, ← RingScan.portsFrom_eq, granted]

theorem granted_eq_some : granted s = some p ↔
    takeable s p = true ∧ ∀ q, (q - s.intakePtr).val < (p - s.intakePtr).val → takeable s q = false := by
  rw [granted_eq, RingScan.findSome?_ring_eq_some]
  simp only [Option.guard_eq_some_iff, Option.guard_eq_none_iff, and_assoc, exists_eq_left, Fin.lt_def]

theorem granted_eq_none : granted s = none ↔ ∀ p, takeable s p = false := by
  rw [granted_eq, RingScan.findSome?_ring_eq_none]
  exact forall_congr' fun _ => Option.guard_eq_none_iff

theorem acceptWhere_of_none (row : State → ReqBody → Bool) (h : granted s = none) : acceptWhere row s = s := by
  simp only [acceptWhere, h]

end Scan

/-- Settles O9: the scan stops at the nearest takeable port. -/
theorem intakeGrantsFirstTakeablePort : Obligations.IntakeGrantsFirstTakeablePort := by
  refine fun s => ⟨fun p => takeable_iff, fun p => granted_eq_some, granted_eq_none, fun hs hnone => ?_⟩
  have haccept : ∀ row, whileRunning s (acceptWhere row) = .next s := fun row => by
    rw [whileRunning_of hs, acceptWhere_of_none row hnone]
  simp only [List.forall_mem_cons]
  exact ⟨haccept _, haccept _, haccept _, haccept _, haccept _, haccept _, haccept _, haccept _, haccept _,
    List.forall_mem_nil _⟩

/-! ## What waits -/

section Waiting

variable {s : State} {p : Port} {tag : ReqTag} {addr : Addr} {mask : ByteMask} {data : LineData}

theorem slots_lowest_eq_none : s.slots.lowest Slot.isFree = none ↔ ∀ k, s.slot k ≠ .free := by
  rw [Table.lowest_none]
  exact forall_congr' fun k => Bool.eq_false_iff.trans (not_congr isFree_slot)

theorem entries_lowest_eq_none : s.entries.lowest Entry.isFree = none ↔ ∀ i, s.entry i ≠ .free := by
  rw [Table.lowest_none]
  exact forall_congr' fun k => Bool.eq_false_iff.trans (not_congr isFree_entry)

theorem orderedReadPresented_eq_none {len : Nat} :
    orderedReadPresented s p tag addr len = none ↔ ∀ k, s.slot k ≠ .free :=
  Option.map_eq_none_iff.trans slots_lowest_eq_none

theorem forwardedReadPresented_eq_none {len : Nat} : forwardedReadPresented s p tag addr len = none ↔
    (∀ k, s.slot k ≠ .free) ∧ fullyCovered (snapshotOf s p addr len) = false := by
  rw [← slots_lowest_eq_none, forwardedReadPresented]
  cases hfull : fullyCovered (snapshotOf s p addr len) with
  | true => simp
  | false => simp

/-- A read waits for a slot, unless its snapshot covers it (R48, R51). -/
theorem readPresented_eq_none {len : Nat} : readPresented s p tag addr len = none ↔
    spanFails addr len = false ∧ (∀ k, s.slot k ≠ .free) ∧
      (classOf s addr = .ordered ∨ fullyCovered (snapshotOf s p addr len) = false) := by
  unfold readPresented
  split_ifs with hspan hcls
  · simp [hspan]
  · simp [hspan, hcls, orderedReadPresented_eq_none]
  · simp [hspan, hcls, forwardedReadPresented_eq_none]

/-- A plain write waits for an entry, unless it combines (R5). -/
theorem plainWritePresented_eq_none : plainWritePresented s p tag addr mask data = none ↔
    (∀ i c, ¬ Combines s p (plainClass s addr) (lineOf addr) i c) ∧ ∀ i, s.entry i ≠ .free := by
  rw [← PostingBuffer.combineTarget_eq_none, ← entries_lowest_eq_none]
  unfold plainWritePresented
  split
  next i c h => simp [h]
  next h => simp [h]

theorem freeEntries_eq_zero (h : s.entries.lowest Entry.isFree = none) : freeEntries s = 0 :=
  Table.count_eq_zero.mpr (Table.lowest_none.mp h)

/-- A new member waits for a reserved entry (R71). -/
theorem newMemberPresented_eq_none {c : CtxIx} {o : OpenCtx} {line : Addr} :
    newMemberPresented s p tag c o line mask data = none ↔
      o.members.length < s.config.bundleQuota ∧ memberEntries s < 64 - s.config.reserve ∧
        freeEntries s < s.config.reserve + 1 := by
  unfold newMemberPresented
  rw [show Config.entryCount = 64 from rfl]
  split_ifs with hquota hspace hreserve
  · exact iff_of_false nofun fun ⟨h, _⟩ => absurd hquota (by omega)
  · exact iff_of_false nofun fun ⟨_, h, _⟩ => absurd hspace (by omega)
  · exact iff_of_true rfl ⟨by omega, by omega, hreserve⟩
  · refine iff_of_false (fun hnone => hreserve ?_) fun ⟨_, _, h⟩ => hreserve h
    rw [freeEntries_eq_zero (Option.map_eq_none_iff.mp hnone)]
    omega

/-- A member write waits only for a new member (R71). -/
theorem memberWritePresented_eq_none {l : Lane} : memberWritePresented s p tag l addr mask data = none ↔
    ∃ c o, contextOn s p l = some c ∧ s.ctx c = .opened o ∧ classOf s addr = .post ∧
      memberOn s o (lineOf addr) = none ∧ o.members.length < s.config.bundleQuota ∧
      memberEntries s < 64 - s.config.reserve ∧ freeEntries s < s.config.reserve + 1 := by
  unfold memberWritePresented
  split
  next hlane => simp [hlane]
  next c hlane =>
    simp only [hlane, Option.some.injEq]
    cases hc : s.ctx c with
    | free => simp [hc]
    | aborted => simp [hc]
    | opened o =>
      have hopen : openMemberPresented s p tag c o addr mask data = none ↔ classOf s addr = .post ∧
          memberOn s o (lineOf addr) = none ∧ o.members.length < s.config.bundleQuota ∧
          memberEntries s < 64 - s.config.reserve ∧ freeEntries s < s.config.reserve + 1 := by
        unfold openMemberPresented
        split_ifs with hcls
        · split
          next hmem => simp [hmem]
          next hmem => simp [hcls, hmem, newMemberPresented_eq_none]
        · simp [hcls]
      rw [hopen]
      constructor
      · exact fun h => ⟨c, o, rfl, hc, h⟩
      · rintro ⟨_, q, rfl, hq, h⟩
        obtain rfl := Ctx.opened.inj (hc.symm.trans hq)
        exact h

theorem headWaiting_iff {r : Request} (hr : (s.port p).head = some r) : headWaiting s p = true ↔ present s p r = none := by
  simp [headWaiting, hr]

/-- Settles O10: only reads and writes wait, each for what its owner has none of, and writes for the mode. -/
theorem headWaitsExactlyWhen : Obligations.HeadWaitsExactlyWhen := by
  intro s p r hr
  rw [headWaiting_iff hr]
  obtain ⟨tag, body⟩ := r
  cases body with
  | read addr len => simp [present, readPresented_eq_none]
  | write addr lane mask data =>
    by_cases hmask : mask = 0#32
    · simp [present, emptyFails, hmask]
    · have hpresent : present s p ⟨tag, .write addr lane mask data⟩ = writePresented s p tag addr lane mask data :=
        if_neg (by simpa [emptyFails] using hmask)
      rw [hpresent]
      unfold writePresented
      by_cases hmode : s.mode = .quiescing ∨ s.mode = .quiesced
      · simp [hmode, hmask]
      · rw [if_neg hmode]
        cases lane with
        | none => simp [hmode, hmask, plainWritePresented_eq_none]
        | some l => simp [hmode, hmask, memberWritePresented_eq_none]
  | fencePort | fenceAll | bOpen | bClose | bCancel => simp [present]

end Waiting

/-! ## Malformed requests -/

section Malformed

variable {s : State} {p : Port} {tag : ReqTag} {addr : Addr} {len : Nat} {lane : Option Lane} {data : LineData}

theorem spanFails_iff : spanFails addr len = true ↔ len = 0 ∨ 32 < len ∨ 32 < addr.toNat % 32 + len := by
  simp only [spanFails, Bool.or_eq_true, beq_iff_eq, decide_eq_true_eq, or_assoc]
  rfl

theorem present_span (h : spanFails addr len = true) :
    present s p ⟨tag, .read addr len⟩ = some (place p tag (.refused .span) s) := if_pos h

theorem present_empty : present s p ⟨tag, .write addr lane 0 data⟩ = some (place p tag (.refused .empty) s) := rfl

theorem takeable_of_present {r : Request} {t : State} (hheld : (s.port p).held = false) (hhead : (s.port p).head = some r)
    (hr : present s p r = some t) : takeable s p = true := by
  simp [takeable, hheld, hhead, hr]

/-- A request that is only answered leaves the state but for the port and the pointer. -/
theorem accepted_answered (s : State) (p : Port) (tag : ReqTag) (a : Answer) :
    accepted p tag (place p tag a s) = answered s p tag a := (accepted_place p tag a rfl).trans rfl

/-- Settles O11: the format checks come before everything else. -/
theorem malformedRequestsAreRefused : Obligations.MalformedRequestsAreRefused := by
  refine fun s p tag => ⟨fun addr len hspan => ⟨fun hheld hhead => ?_, fun ho => ⟨?_, ?_⟩⟩,
    fun addr lane data => ⟨fun hheld hhead => takeable_of_present hheld hhead present_empty, fun ho => ?_⟩⟩
  · exact takeable_of_present hheld hhead (present_span (spanFails_iff.mpr hspan))
  · have hrow : rowForwardedRead s (.read addr len) = true := by simp [rowForwardedRead, spanFails_iff.mpr hspan]
    rw [← accepted_answered]
    exact whileRunning_acceptWhere ho hrow (present_span (spanFails_iff.mpr hspan))
  · have hrow : rowOrderedRead s (.read addr len) = true := by simp [rowOrderedRead, spanFails_iff.mpr hspan]
    rw [← accepted_answered]
    exact whileRunning_acceptWhere ho hrow (present_span (spanFails_iff.mpr hspan))
  · rw [← accepted_answered]
    cases lane with
    | none => exact whileRunning_acceptWhere (row := rowPlainWrite) ho rfl present_empty
    | some l => exact whileRunning_acceptWhere (row := rowMemberWrite) ho rfl present_empty

end Malformed

end Sys2Proof.Intake
end

section
/-! Reads (chapter 3): what a snapshot is made of (R45, R46), the acceptance of both kinds of read (R47, R48, R51) and the
end of a read access (R54 to R56, R60). -/

namespace Sys2Proof.ReadTracker

open Sys2Proof.Machine Sys2Proof.Safety Sys2Proof.Events

/-! ## Layers -/

section Overlay

variable {layers older younger : List (ByteMask × LineData)} {pos : Nat} {b : Byte}

theorem overlayByte_append_singleton (layers : List (ByteMask × LineData)) (x : ByteMask × LineData) (pos : Nat) :
    overlayByte (layers ++ [x]) pos = if selects x.1 pos then some (byteAt x.2 pos) else overlayByte layers pos := by
  simp [overlayByte]

/-- The layer that gives a byte is the last that selects it. -/
theorem overlayByte_eq (layers : List (ByteMask × LineData)) (pos : Nat) :
    overlayByte layers pos = (layers.reverse.find? fun x => selects x.1 pos).map fun x => byteAt x.2 pos := by
  induction layers using List.reverseRecOn with
  | nil => rfl
  | append_singleton layers x ih =>
    rw [overlayByte_append_singleton, List.reverse_append, List.reverse_singleton, List.singleton_append, List.find?_cons, ih]
    cases selects x.1 pos <;> rfl

theorem overlayByte_append (older younger : List (ByteMask × LineData)) (pos : Nat) :
    overlayByte (older ++ younger) pos = (overlayByte younger pos).or (overlayByte older pos) := by
  simp only [overlayByte_eq, List.reverse_append, List.find?_append]
  cases younger.reverse.find? fun x => selects x.1 pos <;> rfl

theorem overlayByte_eq_none (h : ∀ x ∈ layers, selects x.1 pos = false) : overlayByte layers pos = none := by
  rw [overlayByte_eq, Option.map_eq_none_iff, List.find?_eq_none]
  exact fun x hx => by simp [h x (List.mem_reverse.mp hx)]

/-- Where all layers are one, it gives the byte. -/
theorem overlayByte_eq_some {x : ByteMask × LineData} (hx : x ∈ layers) (hall : ∀ y ∈ layers, y = x)
    (hsel : selects x.1 pos = true) (hb : byteAt x.2 pos = b) : overlayByte layers pos = some b := by
  rw [overlayByte_eq]
  cases hfind : layers.reverse.find? fun x => selects x.1 pos with
  | none => exact absurd hsel (List.find?_eq_none.mp hfind x (List.mem_reverse.mpr hx))
  | some y =>
    rw [hall y (List.mem_reverse.mp (List.mem_of_find?_eq_some hfind)), ← hb]
    rfl

end Overlay

/-! ## The layers of a line's chain (R45) -/

section Chain

variable {s t : State} {p : Port} {r : Rank} {line addr : Addr} {len i pos : Nat} {b : Byte}

theorem layer_eq {e : Entry} {c : Committed} (h : e.committed? = some c) : e.layer? = some (c.mask, c.data) := by
  cases e with
  | free | member => cases h
  | pending | issued => exact Option.some.inj h ▸ rfl

theorem chainLayers_eq (s : State) (line : Addr) :
    chainLayers s line = ((lineChain s line).filterMap fun j => (s.entry j).committed?).map fun c => (c.mask, c.data) := by
  rw [chainLayers, List.map_filterMap]
  refine List.filterMap_congr fun j hj => ?_
  obtain ⟨c, hc, -⟩ := (Option.any_eq_true _ _).mp (List.mem_filter.mp hj).2
  rw [layer_eq hc, hc]
  rfl

/-- The chain gives the byte of the youngest entry that selects it. -/
theorem overlayByte_chainLayers (s : State) (line : Addr) (pos : Nat) :
    overlayByte (chainLayers s line) pos =
      ((((lineChain s line).filterMap fun j => (s.entry j).committed?).reverse.find?
        fun c => selects c.mask pos).map fun c => byteAt c.data pos) := by
  rw [overlayByte_eq, chainLayers_eq, ← List.map_reverse, List.find?_map, Option.map_map]
  rfl

/-! ## The layers of the port's own members (R46) -/

/-- The layers of the contexts of one rank. -/
def rankLayers (s : State) (p : Port) (r : Rank) (line : Addr) : List (ByteMask × LineData) :=
  s.contexts.items.flatMap (ctxLayers s p r line)

/-- The layer is that of a member on the line, of a context of port p with the rank. -/
def MemberLayer (s : State) (p : Port) (r : Rank) (line : Addr) (x : ByteMask × LineData) : Prop :=
  ∃ c o i m, s.ctx c = .opened o ∧ o.port = p ∧ o.rank = r ∧ i ∈ o.members ∧ s.entry i = .member m ∧ m.line = line ∧
    x = (m.mask, m.data)

theorem mem_ctxLayers {y : Ctx} {x : ByteMask × LineData} : x ∈ ctxLayers s p r line y ↔
    ∃ o i m, y = .opened o ∧ o.port = p ∧ o.rank = r ∧ i ∈ o.members ∧ s.entry i = .member m ∧ m.line = line ∧
      x = (m.mask, m.data) := by
  have hentry : ∀ i, (match s.entry i with
      | .member m => if m.line = line then some (m.mask, m.data) else none
      | _ => none) = some x ↔ ∃ m, s.entry i = .member m ∧ m.line = line ∧ x = (m.mask, m.data) := by
    intro i
    cases s.entry i <;> simp [eq_comm]
  cases y with
  | free | aborted => simp [ctxLayers]
  | opened o =>
    simp only [ctxLayers, Ctx.opened.injEq]
    split_ifs with h
    · obtain ⟨hport, hrank⟩ := h
      simp only [List.mem_filterMap]
      constructor
      · rintro ⟨i, hi, hx⟩
        obtain ⟨m, hm, hl, hx⟩ := (hentry i).mp hx
        exact ⟨o, i, m, rfl, hport, hrank, hi, hm, hl, hx⟩
      · rintro ⟨_, i, m, rfl, -, -, hi, hm, hl, hx⟩
        exact ⟨i, hi, (hentry i).mpr ⟨m, hm, hl, hx⟩⟩
    · refine iff_of_false List.not_mem_nil ?_
      rintro ⟨_, _, _, rfl, hport, hrank, -⟩
      exact h ⟨hport, hrank⟩

theorem mem_rankLayers {x : ByteMask × LineData} : x ∈ rankLayers s p r line ↔ MemberLayer s p r line x := by
  simp only [rankLayers, List.mem_flatMap, Table.mem_items, mem_ctxLayers]
  constructor
  · rintro ⟨_, ⟨c, rfl⟩, o, i, m, h⟩
    exact ⟨c, o, i, m, h⟩
  · rintro ⟨c, o, i, m, h⟩
    exact ⟨_, ⟨c, rfl⟩, o, i, m, h⟩

/-- A port has one context of a rank, and it one member on a line (R64, R68). -/
theorem memberLayer_unique (hE : EntriesExact s) (hL : LanesAndRanks s) {x y : ByteMask × LineData}
    (hx : MemberLayer s p r line x) (hy : MemberLayer s p r line y) : x = y := by
  obtain ⟨c, o, i, m, hc, hport, hrank, hi, hm, hl, rfl⟩ := hx
  obtain ⟨d, q, j, n, hd, hport', hrank', hj, hn, hl', rfl⟩ := hy
  obtain rfl := hL.rank c d p (by simp [Ctx.ownedBy, Ctx.laneOf?, hc, hport]) (by simp [Ctx.ownedBy, Ctx.laneOf?, hd, hport'])
    (by simp [Ctx.rank?, hc, hd, hrank, hrank'])
  obtain rfl := Ctx.opened.inj (hc.symm.trans hd)
  obtain rfl := hE.2.lines c o hc i hi j hj m n hm hn (hl.trans hl'.symm)
  obtain rfl := Entry.member.inj (hm.symm.trans hn)
  rfl

theorem overlayByte_rankLayers (hE : EntriesExact s) (hL : LanesAndRanks s) (h : MemberByte s p r line pos b) :
    overlayByte (rankLayers s p r line) pos = some b := by
  obtain ⟨c, o, i, m, hc, hport, hrank, hi, hm, hl, hsel, hb⟩ := h
  have hlayer : MemberLayer s p r line (m.mask, m.data) := ⟨c, o, i, m, hc, hport, hrank, hi, hm, hl, rfl⟩
  exact overlayByte_eq_some (mem_rankLayers.mpr hlayer)
    (fun y hy => memberLayer_unique hE hL (mem_rankLayers.mp hy) hlayer) hsel hb

theorem overlayByte_rankLayers_none (h : ∀ a, ¬ MemberByte s p r line pos a) :
    overlayByte (rankLayers s p r line) pos = none := by
  refine overlayByte_eq_none fun x hx => Bool.eq_false_iff.mpr fun hsel => ?_
  obtain ⟨c, o, i, m, hc, hport, hrank, hi, hm, hl, rfl⟩ := mem_rankLayers.mp hx
  exact h _ ⟨c, o, i, m, hc, hport, hrank, hi, hm, hl, hsel, rfl⟩

/-- A byte of a snapshot: SECOND over FIRST over the chain. -/
theorem snapshotOf_getElem (hi : i < len) : (snapshotOf s p addr len)[i]? =
    some ((overlayByte (rankLayers s p .second (lineOf addr)) (lineOffset addr + i)).or
      ((overlayByte (rankLayers s p .first (lineOf addr)) (lineOffset addr + i)).or
        (overlayByte (chainLayers s (lineOf addr)) (lineOffset addr + i)))) := by
  simp only [snapshotOf, List.getElem?_map, List.getElem?_range hi, Option.map_some]
  rw [show ownLayers s p (lineOf addr) = rankLayers s p .first (lineOf addr) ++ rankLayers s p .second (lineOf addr) from rfl,
    overlayByte_append, overlayByte_append, Option.or_assoc]

/-- Settles O13: a snapshot lays the layers over one another, and each rank has one layer of the line. -/
theorem snapshotByteIsTheTopmostWriter : Obligations.SnapshotByteIsTheTopmostWriter := by
  intro s p addr len i hE hL hi
  rw [snapshotOf_getElem hi]
  refine ⟨fun b hb => ?_, fun b hnone hb => ?_, fun hnone => ?_⟩
  · rw [overlayByte_rankLayers hE hL hb, Option.some_or]
  · rw [overlayByte_rankLayers_none hnone, overlayByte_rankLayers hE hL hb, Option.none_or, Option.some_or]
  · rw [overlayByte_rankLayers_none (hnone .second), overlayByte_rankLayers_none (hnone .first), Option.none_or,
      Option.none_or, overlayByte_chainLayers]

/-! ## Other ports -/

theorem lineChain_congr (horder : s.commitOrder = t.commitOrder)
    (hentry : ∀ i, (s.entry i).committed? = (t.entry i).committed?) (line : Addr) : lineChain s line = lineChain t line := by
  rw [lineChain, lineChain, committedView, committedView, horder]
  refine List.filter_congr fun i _ => ?_
  rw [Entry.committedWith, Entry.committedWith, hentry]

theorem ctxLayers_congr {x y : Ctx} (hctx : ∀ o, o.port = p → (x = .opened o ↔ y = .opened o))
    (hentry : ∀ o, o.port = p → x = .opened o → ∀ i ∈ o.members, s.entry i = t.entry i) :
    ctxLayers s p r line x = ctxLayers t p r line y := by
  have hempty : ∀ (u : State) (z : Ctx), (∀ o, o.port = p → z ≠ .opened o) → ctxLayers u p r line z = [] := by
    intro u z hz
    cases z with
    | free | aborted => rfl
    | opened o => exact if_neg fun ⟨hport, _⟩ => hz o hport rfl
  by_cases h : ∃ o, o.port = p ∧ x = .opened o
  · obtain ⟨o, hport, rfl⟩ := h
    rw [(hctx o hport).mp rfl]
    refine ite_congr rfl (fun _ => List.filterMap_congr fun i hi => ?_) fun _ => rfl
    rw [hentry o hport rfl i hi]
  · rw [hempty s x fun o hport hx => h ⟨o, hport, hx⟩, hempty t y fun o hport hy => h ⟨o, hport, (hctx o hport).mpr hy⟩]

/-- Settles O14: the chain is of committed entries, and the other layers of the port's own members. -/
theorem otherPortsMembersAreUnseen : Obligations.OtherPortsMembersAreUnseen := by
  intro s t p addr len horder hcommitted hctx hmembers
  have hchain : chainLayers s (lineOf addr) = chainLayers t (lineOf addr) := by
    rw [chainLayers_eq, chainLayers_eq, lineChain_congr horder hcommitted]
    simp only [hcommitted]
  have hrank : ∀ r, rankLayers s p r (lineOf addr) = rankLayers t p r (lineOf addr) := fun r => by
    rw [rankLayers, rankLayers, Table.items_eq, Table.items_eq, List.flatMap_map, List.flatMap_map]
    exact List.flatMap_congr fun c _ => ctxLayers_congr (hctx c) (hmembers c)
  have hown : ownLayers s p (lineOf addr) = ownLayers t p (lineOf addr) :=
    congrArg₂ (· ++ ·) (hrank .first) (hrank .second)
  rw [snapshotOf, snapshotOf, hchain, hown]

end Chain

/-! ## Acceptance -/

section Acceptance

variable {s : State} {p : Port} {tag : ReqTag} {addr : Addr} {len : Nat} {k : SlotIx}

/-- An accepted read that takes a slot. -/
theorem accepted_slotted (s : State) (p : Port) (tag : ReqTag) (k : SlotIx) (x : Slot) :
    accepted p tag (bumpSeq p (s.setSlot k x)) =
      { taken s p tag with
        ports := s.ports.set p { takenPort s p tag with nextSeq := (s.port p).nextSeq + 1 }
        slots := s.slots.set k x } := by
  simp [accepted, bumpSeq, taken, takenPort, State.setPort, State.setSlot, State.port]

/-- An accepted read that is answered from the buffer. -/
theorem accepted_forwarded (s : State) (p : Port) (tag : ReqTag) (a : Answer) :
    accepted p tag (bumpSeq p (place p tag a s)) =
      { answered s p tag a with
        ports := s.ports.set p { answeredPort s p tag a with nextSeq := (s.port p).nextSeq + 1 } } := by
  simp [accepted, bumpSeq, place, answered, answeredPort, takenPort, State.setPort, State.port]

theorem present_read (h1 : 1 ≤ len) (h2 : addr.toNat % 32 + len ≤ 32) :
    present s p ⟨tag, .read addr len⟩ =
      if classOf s addr = .ordered then orderedReadPresented s p tag addr len
      else forwardedReadPresented s p tag addr len := by
  change readPresented s p tag addr len = _
  rw [readPresented, if_neg (by rw [spanFails_of h1 h2]; decide)]

theorem forwardedReadPresented_of_covered {bytes : List Byte} (h : snapshotOf s p addr len = bytes.map some) :
    forwardedReadPresented s p tag addr len = some (bumpSeq p (place p tag (.doneRead bytes .buffer) s)) := by
  have hbytes : coveredBytes (bytes.map some) = bytes := by simp [coveredBytes]
  rw [forwardedReadPresented, h, if_pos (fullyCovered_iff.mpr (by simp)), hbytes]

theorem forwardedReadPresented_of_slot (h : none ∈ snapshotOf s p addr len) (hk : FirstAt s.slots (fun x => x = .free) k) :
    forwardedReadPresented s p tag addr len =
      some (bumpSeq p (s.setSlot k (.ready (readRec s p tag addr len (snapshotOf s p addr len) none)))) := by
  rw [forwardedReadPresented, if_neg (fun hfull => fullyCovered_iff.mp hfull h), lowest_slot hk]
  rfl

/-- Settles O12: a snapshot that covers every byte is the answer, and another is kept in the slot. -/
theorem forwardedReadAnsweredOrSlotted : Obligations.ForwardedReadAnsweredOrSlotted := by
  intro s p tag addr len ho h1 h2 hcls
  have hrow : rowForwardedRead s (.read addr len) = true := by simp [rowForwardedRead, hcls]
  have hpresent := present_read (s := s) (p := p) (tag := tag) h1 h2
  rw [if_neg hcls] at hpresent
  refine ⟨fun bytes hbytes => ?_, fun k hnone hk => ?_⟩
  · rw [← accepted_forwarded]
    exact whileRunning_acceptWhere ho hrow (hpresent.trans (forwardedReadPresented_of_covered hbytes))
  · refine (whileRunning_acceptWhere ho hrow (hpresent.trans (forwardedReadPresented_of_slot hnone hk))).trans ?_
    rw [accepted_slotted]
    rfl

/-- Settles O15: the waits-for set is taken at acceptance, and decides between WAITING and READY. -/
theorem orderedReadTakesSlot : Obligations.OrderedReadTakesSlot := by
  intro s p tag addr len k ho h1 h2 hcls hk
  have hrow : rowOrderedRead s (.read addr len) = true := by simp [rowOrderedRead, hcls]
  have hpresent := present_read (s := s) (p := p) (tag := tag) h1 h2
  rw [if_pos hcls, orderedReadPresented, lowest_slot hk] at hpresent
  refine ⟨waitsForSet s (lineOf addr), _, Table.nodup_positions _ _, fun i => mem_waitsForSet, rfl, ?_⟩
  refine (whileRunning_acceptWhere ho hrow hpresent).trans ?_
  rw [accepted_slotted]
  rfl

end Acceptance

/-! ## The end of a read access -/

section Ends

theorem recordAfter_eq (e : AccessEnd) : e.recordAfter = if e = .timeout then .quarantined else .free := by
  cases e <;> rfl

theorem length_mergeBytes (snap : List (Option Byte)) (data : BitVec 256) : (mergeBytes snap data).length = snap.length := by
  simp [mergeBytes]

theorem getElem_mergeBytes {snap : List (Option Byte)} {i : Nat} {x : Option Byte} (h : snap[i]? = some x)
    (data : BitVec 256) : (mergeBytes snap data)[i]? = some (x.getD (data.extractLsb' (8 * i) 8)) := by
  simp [mergeBytes, h, fieldByte]

theorem exec_memoryResponse {s : State} (hs : s.inReset = false) {t : AccessTag} {o : Owner} {n : Nat}
    (ht : s.access t = .outstanding o n) (st : MemStatus) (data : BitVec 256) :
    exec (.memoryResponse t st data) s = .next (endAccess t (responseEnd st data) s) := by
  refine (whileRunning_of hs _).trans (congrArg Host.Outcome.next ?_)
  simp only [responseArrives, ht]

/-- Settles O16: record and slot end together, and an orphaned slot's port is not answered. -/
theorem readAccessEndAnswersTheSlot : Obligations.ReadAccessEndAnswersTheSlot := by
  intro s t t' e n k r orphaned hs ht hk
  refine ⟨_, rfl, fun data he => ?_, fun he data => ?_, fun ho => ?_, fun ho => ?_⟩
  · rw [he]
    exact exec_memoryResponse hs ht .ok data
  · rw [he]
    exact exec_memoryResponse hs ht .error data
  · subst ho
    have hk' : (s.setAccess t e.recordAfter).slot k = .issued r t' true := hk
    rw [endAccess_read ht, ← recordAfter_eq]
    simp only [endRead, hk']
    rfl
  · subst ho
    have hk' : (s.setAccess t e.recordAfter).slot k = .issued r t' false := hk
    refine ⟨readAnswer r e, ?_, ?_, ?_, ?_⟩
    · rw [endAccess_read ht, ← recordAfter_eq]
      simp only [endRead, hk']
      rfl
    · rintro rfl
      rfl
    · rintro rfl
      rfl
    · rintro data rfl
      exact ⟨_, rfl, length_mergeBytes _ _, fun i x hx => getElem_mergeBytes hx data⟩

end Ends

end Sys2Proof.ReadTracker
end

section
/-! Fences at their acceptance (chapter 5, R87 to R90). -/

namespace Sys2Proof.FenceRows

open Sys2Proof.Machine Sys2Proof.Safety

section Fences

variable {k : FenceKind} {s : State} {p : Port} {tag : ReqTag}

theorem exec_fence (ho : Offers s p tag (fenceBody k)) :
    exec (fenceRow k) s = .next (accepted p tag (fencePresented s k p tag)) := by
  cases k with
  | port => exact whileRunning_acceptWhere (row := rowFencePort) ho rfl rfl
  | all => exact whileRunning_acceptWhere (row := rowFenceAll) ho rfl rfl

theorem openOf_count_eq_zero : s.contexts.count (Ctx.openOf p) = 0 ↔ ∀ c o, s.ctx c = .opened o → o.port ≠ p := by
  rw [Table.count_eq_zero]
  refine forall_congr' fun c => ?_
  rw [← Bool.not_eq_true, show s.contexts.get c = s.ctx c from rfl, openOf_iff]
  simp

theorem fencePresented_of_open {c : CtxIx} {o : OpenCtx} (hc : s.ctx c = .opened o) (ho : o.port = p) :
    fencePresented s k p tag = place p tag (.refused .fenceInBundle) s :=
  if_pos fun hzero => openOf_count_eq_zero.mp hzero c o hc ho

theorem fencePresented_of_full (hopen : ∀ c o, s.ctx c = .opened o → o.port ≠ p) (hfull : ∀ j, s.fence j ≠ .free) :
    fencePresented s k p tag = place p tag (.retry .noFence) s := by
  have hnone : s.fences.lowest FenceRec.isFree = none := Table.lowest_none.mpr fun j =>
    Bool.eq_false_iff.mpr (mt isFree_fence.mp (hfull j))
  rw [fencePresented, if_neg (not_not_intro (openOf_count_eq_zero.mpr hopen)), hnone]

theorem fencePresented_of_first (hopen : ∀ c o, s.ctx c = .opened o → o.port ≠ p) {j : FenceIx}
    (hj : FirstAt s.fences (fun f => f = .free) j) : fencePresented s k p tag = fenceAccepted s k p tag j := by
  rw [fencePresented, if_neg (not_not_intro (openOf_count_eq_zero.mpr hopen)), lowest_fence hj]

/-- Port p after the acceptance of a fence of a kind: FENCE-PORT consumes the port fault flag (R89). -/
def faultConsumed (k : FenceKind) (s : State) (p : Port) (x : PortState) : PortState :=
  { x with portFault := decide (k = .all) && (s.port p).portFault }

theorem accepted_fence_answered (k : FenceKind) (s : State) (p : Port) (tag : ReqTag) (a : Answer) (n : Nat) :
    accepted p tag (place p tag a { consumePortFault k p s with nextFence := n }) =
      { answered s p tag a with
        ports := s.ports.set p (faultConsumed k s p (answeredPort s p tag a)), nextFence := n } := by
  cases k <;>
    simp [accepted, place, consumePortFault, answered, answeredPort, takenPort, State.setPort, State.port, faultConsumed]

theorem accepted_fence_waiting (k : FenceKind) (s : State) (p : Port) (tag : ReqTag) (j : FenceIx) (f : FenceRec) (n : Nat) :
    accepted p tag (State.setFence { consumePortFault k p s with nextFence := n } j f) =
      { taken s p tag with
        ports := s.ports.set p (faultConsumed k s p (takenPort s p tag)), fences := s.fences.set j f, nextFence := n } := by
  cases k <;>
    simp [accepted, consumePortFault, taken, takenPort, State.setPort, State.setFence, State.port, faultConsumed]

theorem mem_waitSetOf {i : EntryIx} :
    i ∈ waitSetOf s k p ↔ ∃ c, (s.entry i).committed? = some c ∧ (k = .all ∨ c.port = p) := by
  rw [waitSetOf, Table.mem_positions, Entry.committedWith, Option.any_eq_true]
  simp [State.entry]

theorem faultSeen_eq (k : FenceKind) (s : State) (p : Port) (tag : ReqTag) :
    (newFence s k p tag).faultSeen = (decide (k = .port) && (s.port p).portFault) := by
  cases k <;> rfl

/-- Settles O28: the rows of the fence table are tried in their order. -/
theorem fenceTakesTheFirstRow : Obligations.FenceTakesTheFirstRow := by
  intro k s p tag ho
  rw [exec_fence ho]
  refine ⟨fun c o hc hport => ?_, fun hopen => ⟨fun hfull => ?_, fun j hj => ?_⟩⟩
  · rw [fencePresented_of_open hc hport, Intake.accepted_answered]
  · rw [fencePresented_of_full hopen hfull, Intake.accepted_answered]
  · rw [fencePresented_of_first hopen hj]
    refine ⟨waitSetOf s k p, _, Table.nodup_positions _ _, fun i => mem_waitSetOf, faultSeen_eq k s p tag,
      fun hw => ?_, fun hw => ?_⟩
    · have hempty : (newFence s k p tag).waitSet = [] := hw
      simp only [fenceAccepted, if_pos hempty, accepted_fence_answered]
      rfl
    · have hne : ¬ (newFence s k p tag).waitSet = [] := hw
      simp only [fenceAccepted, if_neg hne, accepted_fence_waiting]
      rfl

end Fences

end Sys2Proof.FenceRows
end

section
/-! Due-ness (R30 to R33), and the arbiter's class and drain (chapter 6, R102, R104, R109). -/

namespace Sys2Proof.Arbitration

open Sys2Proof.Machine Sys2Proof.Safety

/-! ## Due-ness -/

section Due

variable {s : State} {i j : EntryIx} {l older younger : List EntryIx}

theorem youngerIn_cons_self (i : EntryIx) (l : List EntryIx) : youngerIn (i :: l) i = l := by
  simp [youngerIn]

theorem youngerIn_cons_of_ne {a : EntryIx} (h : a ≠ i) (l : List EntryIx) : youngerIn (a :: l) i = youngerIn l i := by
  simp [youngerIn, h]

/-- What stands behind any occurrence stands behind the first. -/
theorem mem_youngerIn_of_stands (h : Stands l i older younger) (hj : j ∈ younger) : j ∈ youngerIn l i := by
  rw [h]
  clear h
  induction older with
  | nil => rwa [List.nil_append, youngerIn_cons_self]
  | cons a older ih =>
    by_cases ha : a = i
    · rw [ha, List.cons_append, youngerIn_cons_self]
      exact List.mem_append_right _ (List.mem_cons_of_mem _ hj)
    · rwa [List.cons_append, youngerIn_cons_of_ne ha]

theorem mem_youngerIn_iff : j ∈ youngerIn l i ↔ ∃ older younger, Stands l i older younger ∧ j ∈ younger := by
  constructor
  · intro hj
    have hi : i ∈ l := by
      by_contra hi
      have hall : l.dropWhile (fun x => x != i) = [] := List.dropWhile_eq_nil_iff.mpr fun x hx => by
        simpa using fun hxi : x = i => hi (hxi ▸ hx)
      simp [youngerIn, hall] at hj
    exact ⟨_, _, stands_of_mem hi, hj⟩
  · rintro ⟨_, _, h, hj⟩
    exact mem_youngerIn_of_stands h hj

/-- Settles O29: propagation looks at the younger entries of the port's queue, and AGE_REACHED is no event of the state. -/
theorem dueByOwnCauseOrPropagation : Obligations.DueByOwnCauseOrPropagation := by
  refine fun s i => ⟨?_, fun hs => whileRunning_of hs fun s => s⟩
  unfold isDue
  split
  next c hc =>
    simp only [hc, Entry.pending.injEq, exists_eq_left', Bool.or_eq_true, ownCause_iff, List.any_eq_true, mem_youngerIn_iff,
      dueByOwn_iff]
    refine or_congr_right ?_
    constructor
    · rintro ⟨j, ⟨older, younger, hstands, hj⟩, d, hd, hown⟩
      exact ⟨older, younger, j, d, hstands, hj, hd, hown⟩
    · rintro ⟨older, younger, j, d, hstands, hj, hd, hown⟩
      exact ⟨j, ⟨older, younger, hstands, hj⟩, d, hd, hown⟩
  next hno =>
    refine iff_of_false nofun ?_
    rintro ⟨c, hc, -⟩
    exact hno c hc

end Due

/-! ## The arbiter -/

section Arbiter

variable {s : State} {t : AccessTag}

theorem anyDrainCandidate_iff : anyDrainCandidate s = true ↔ ∃ p i, drainCandidate s p = some i := by
  simp [anyDrainCandidate, Option.isSome_iff_exists]

theorem anyReadCandidate_eq_false : anyReadCandidate s = false ↔ ∀ p, readCandidate s p = none := by
  simp [anyReadCandidate]

theorem choosesDrain_iff : choosesDrain s = true ↔ (∃ p i, drainCandidate s p = some i) ∧
    ((∀ p, readCandidate s p = none) ∨ (s.pressure = true ∧ s.arbiter.lastClass = .read) ∨
      s.config.readRunLimit ≤ s.arbiter.readRun) := by
  simp only [choosesDrain, Bool.and_eq_true, Bool.or_eq_true, Bool.not_eq_true', decide_eq_true_eq, beq_iff_eq,
    anyDrainCandidate_iff, anyReadCandidate_eq_false, or_assoc]

/-- Without a candidate the arbiter grants nothing. -/
theorem chosenGrant_eq_none (hdrain : ∀ p, drainCandidate s p = none) (hread : ∀ p, readCandidate s p = none) :
    chosenGrant s = none := by
  have hclass : ¬ choosesDrain s = true := fun h => by
    obtain ⟨⟨p, i, hi⟩, -⟩ := choosesDrain_iff.mp h
    exact nomatch (hdrain p).symm.trans hi
  have hscan : scanRings s.config.portLow s.arbiter.reads (fun q => (readCandidate s q).isSome) = none :=
    RingScan.scanRings_eq_none.mpr fun q => by rw [hread q]; rfl
  rw [chosenGrant, if_neg hclass, readGrant, hscan]

theorem lowest_access_eq_none (h : ∀ t, s.access t ≠ .free) : s.accesses.lowest AccessRec.isFree = none :=
  Table.lowest_none.mpr fun t => Bool.eq_false_iff.mpr (mt isFree_access.mp (h t))

/-- Settles O31: the class is chosen by what candidates there are, and an issue needs a record and a grant. -/
theorem arbiterChoosesTheClass : Obligations.ArbiterChoosesTheClass := by
  refine fun s => ⟨choosesDrain_iff, fun p k => readCandidate_lowest, fun p => readCandidate_eq_none, fun hs hno => ?_⟩
  rw [ReadIssue.exec_issue, execIssue, whileRunning_of hs]
  obtain hfull | ⟨hdrain, hread⟩ := hno
  · simp [issueNow, offeredAccess, hs, lowest_access_eq_none hfull]
  · simp [issueNow, offeredAccess, hs, chosenGrant_eq_none hdrain hread]

/-! ## The issue of a write -/

variable {i : EntryIx} {c : Committed}

/-- The grant of entry `i` to the port that `won` names (R104, R107). -/
def grantOfDrain (s : State) (won : Port × Bool) (i : EntryIx) : Grant :=
  { owner := .write i
    arbiter :=
      { readRun := 0, lastClass := .drain, reads := s.arbiter.reads, drains := movePtrs s.arbiter.drains won } }

/-- In class DRAIN the arbiter grants the candidate of the port that the scan of the rings finds. -/
theorem chosenGrant_of_drain {won : Port × Bool} (hclass : choosesDrain s = true)
    (hscan : scanRings s.config.portLow s.arbiter.drains (fun q => (drainCandidate s q).isSome) = some won)
    (hi : drainCandidate s won.1 = some i) : chosenGrant s = some (grantOfDrain s won i) := by
  simp [chosenGrant, hclass, drainGrant, hscan, hi, grantOfDrain]

/-- Entry, record and arbiter change beside the waits-for sets (R109). -/
theorem issueGrant_drain (hi : s.entry i = .pending c) (won : Port × Bool) :
    issueGrant (grantOfDrain s won i) t s =
      { dropWaits i s with
        entries := s.entries.set i (.issued c t)
        accesses := s.accesses.set t (.outstanding (.write i) 0)
        arbiter := (grantOfDrain s won i).arbiter } := by
  have hentry : issueOwner (grantOfDrain s won i).owner t s = dropWaits i (s.setEntry i (.issued c t)) :=
    Events.issueEntry_of_pending hi t
  rw [issueGrant, hentry]
  rfl

theorem getD_dropWait (i : EntryIx) (r : ReadRec) :
    (r.dropWait i).waitsFor.getD [] = (r.waitsFor.getD []).filter fun j => j != i := by
  cases h : r.waitsFor with
  | none => simp [ReadRec.dropWait, h]
  | some w => simp [ReadRec.dropWait, h, without]

/-- Settles O33: in class DRAIN the arbiter's choice is the granted port's candidate, and its issue empties the waits-for
sets of it. -/
theorem issueDrainsTheCandidate : Obligations.IssueDrainsTheCandidate := by
  intro s t p low i c hs ht hclass hscan hcand hi
  have hgrant : chosenGrant s = some (grantOfDrain s (p, low) i) := chosenGrant_of_drain hclass hscan hcand
  have hissue := ReadIssue.exec_issue_of_grant hs ht hgrant
  rw [issueGrant_drain hi] at hissue
  have hslot := Events.slot_dropWaits i s
  refine ⟨?_, _, hissue, fun k r hk => ?_, fun k r hk => ?_, fun k r a o hk => ?_, fun k hk => ?_, rfl⟩
  · rw [ReadIssue.offeredAccess_of_grant hs ht hgrant, grantOfDrain, accessOf, hi]
    rfl
  · refine (hslot k).trans ?_
    rw [hk, Slot.dropWait, getD_dropWait]
    rfl
  · refine (hslot k).trans ?_
    rw [hk]
    rfl
  · refine (hslot k).trans ?_
    rw [hk]
    rfl
  · refine (hslot k).trans ?_
    rw [hk]
    rfl

end Arbiter

end Sys2Proof.Arbitration
end

section
/-! Retirement (R17 to R19, R91 to R93): what the end of a write access changes, and the order of its answers. -/

namespace Sys2Proof.Retirement

open Sys2Proof.Machine Sys2Proof.Safety Sys2Proof.Events

section Report

variable {s : State} {c : Committed} {e : AccessEnd} {p : Port}

/-- What a THROUGH entry is answered, by the end of its access (R17, R19). -/
def ownAnswer : AccessEnd → Answer
  | .ok _ => .done
  | .error => .fault .memError
  | .timeout => .fault .memTimeout

theorem reportEnd_of_through (hc : c.cls = .through) (e : AccessEnd) (s : State) :
    reportEnd c e s = answerThrough c (ownAnswer e) s := by
  cases e <;> simp only [reportEnd, hc, ownAnswer]

theorem reportEnd_of_ok (hc : c.cls ≠ .through) (he : e.failed = false) (s : State) : reportEnd c e s = s := by
  cases e with
  | ok data => cases hcls : c.cls <;> simp_all [reportEnd]
  | error | timeout => cases he

/-- The kind of the fault record of a failed access (R18). -/
def faultKindOf : AccessEnd → FaultKind
  | .timeout => .writeTimeout
  | _ => .writeError

theorem reportEnd_of_failed (hc : c.cls ≠ .through) (he : e.failed = true) (s : State) :
    reportEnd c e s = reportPosted c (faultKindOf e) s := by
  cases e with
  | ok data => cases he
  | error | timeout => cases hcls : c.cls <;> simp_all [reportEnd, faultKindOf]

/-- The port after the answer of a THROUGH entry. -/
theorem port_answerThrough (c : Committed) (a : Answer) (s : State) (p : Port) :
    (answerThrough c a s).port p = { s.port p with
      queue := (s.port p).queue ++
        if c.port = p then (c.replyTag.map fun tag => ({ tag := tag, answer := a } : Response)).toList else [] } := by
  unfold answerThrough
  split
  next tag htag =>
    rw [place, port_setPort, htag]
    by_cases hp : p = c.port
    · subst hp
      simp
    · simp [hp, Ne.symm hp]
  next hnone => simp [hnone]

/-- The port after the report of a failed POST or ORDERED entry (R18). -/
theorem port_reportPosted (c : Committed) (kind : FaultKind) (s : State) (p : Port) :
    (reportPosted c kind s).port p = { s.port p with portFault := (s.port p).portFault || c.port == p } := by
  have hrecord : ∀ q, (recordFault (faultRecordOf s c kind) s).port q = s.port q := fun q => by
    simp only [State.port, recordFault_frame]
  rw [reportPosted, setPortFault, port_setPort]
  by_cases hp : p = c.port
  · subst hp
    simp [hrecord]
  · have hother : (c.port == p) = false := by simpa using Ne.symm hp
    simp [hp, hother, hrecord]

/-- The ports after the entry's own report: its answer, or its port's fault flag. -/
theorem port_reportEnd (c : Committed) (e : AccessEnd) (s : State) (p : Port) :
    (reportEnd c e s).port p = { s.port p with
      portFault := (s.port p).portFault || (e.failed && c.cls != .through && c.port == p)
      queue := (s.port p).queue ++
        if c.cls = .through ∧ c.port = p then
          (c.replyTag.map fun tag => ({ tag := tag, answer := ownAnswer e } : Response)).toList
        else [] } := by
  by_cases hc : c.cls = .through
  · rw [reportEnd_of_through hc, port_answerThrough]
    simp [hc]
  · have hcls : (c.cls != .through) = true := by simpa using hc
    cases he : e.failed with
    | true =>
      rw [reportEnd_of_failed hc he, port_reportPosted]
      simp [hc, hcls]
    | false =>
      rw [reportEnd_of_ok hc he]
      simp [hc]

theorem recordFault_of_room (h : s.faultList.length < 8) (r : FaultRecord) :
    recordFault r s = { s with faultList := s.faultList ++ [r] } := if_pos h

theorem recordFault_of_full (h : 8 ≤ s.faultList.length) (r : FaultRecord) :
    recordFault r s = { s with overflow := true } := if_neg (Nat.not_lt.mpr h)

/-- The fault list after the report of a failed entry: a record at the tail, or overflow (R158). -/
theorem faultList_reportPosted (c : Committed) (kind : FaultKind) (s : State) :
    (s.faultList.length < 8 →
      (reportPosted c kind s).overflow = s.overflow ∧
        (reportPosted c kind s).faultList = s.faultList ++ [faultRecordOf s c kind]) ∧
      (8 ≤ s.faultList.length → (reportPosted c kind s).faultList = s.faultList ∧ (reportPosted c kind s).overflow = true) := by
  refine ⟨fun hlt => ?_, fun hle => ?_⟩
  · rw [reportPosted, recordFault_of_room hlt]
    exact ⟨rfl, rfl⟩
  · rw [reportPosted, recordFault_of_full hle]
    exact ⟨rfl, rfl⟩

theorem faultList_answerThrough (c : Committed) (a : Answer) (s : State) :
    (answerThrough c a s).faultList = s.faultList ∧ (answerThrough c a s).overflow = s.overflow :=
  ⟨by simp, by simp⟩

end Report

/-! ## The end of an entry's access -/

section Ends

variable {s : State} {t t' : AccessTag} {e : AccessEnd} {i : EntryIx} {c : Committed} {n : Nat}

/-- The state in which the emptied fences are answered. -/
def dropped (i : EntryIx) (c : Committed) (e : AccessEnd) (s : State) : State :=
  leaveFences i e.failed (dropEntry i (reportEnd c e s))

theorem endWrite_eq_dropped (hi : s.entry i = .issued c t) (e : AccessEnd) :
    endWrite i e s = afterRelease (answerEmptied (dropped i c e s)) := endWrite_of_issued hi e

theorem fence_dropped (i : EntryIx) (c : Committed) (e : AccessEnd) (s : State) (j : FenceIx) :
    (dropped i c e s).fence j = (s.fence j).leave i e.failed := by
  simp [dropped, leaveFences, State.fence]

theorem faults_endWrite (hi : s.entry i = .issued c t) (e : AccessEnd) :
    (endWrite i e s).faultList = (reportEnd c e s).faultList ∧ (endWrite i e s).overflow = (reportEnd c e s).overflow := by
  rw [endWrite_of_issued hi]
  exact ⟨by simp [dropEntry], by simp [dropEntry]⟩

/-- A retirement changes entry, commit order, fences, ports, fault list, pressure and mode. -/
theorem endWrite_eq (hi : s.entry i = .issued c t) (e : AccessEnd) :
    endWrite i e s = { s with
      ports := (endWrite i e s).ports, entries := s.entries.set i .free
      commitOrder := s.commitOrder.filter fun j => j != i, fences := (endWrite i e s).fences
      faultList := (endWrite i e s).faultList, overflow := (endWrite i e s).overflow
      pressure := (endWrite i e s).pressure, mode := (endWrite i e s).mode, modeEvent := (endWrite i e s).modeEvent } := by
  have hframe := endWrite_frame i e s
  have hentries := entries_endWrite hi e
  have horder := commitOrder_endWrite hi e
  generalize endWrite i e s = u at hframe hentries horder ⊢
  cases u
  simp_all [without]

theorem leave_of_mem {w : FenceWait} (hi : i ∈ w.waitSet) (failed : Bool) :
    FenceRec.leave i failed (.waiting w) =
      .waiting { w with waitSet := without i w.waitSet, faultSeen := w.faultSeen || failed } :=
  if_pos (by simpa using hi)

/-- What a retirement leaves of a record: nothing where it empties its set (R91, R92). -/
theorem fence_retired (hW : WaitSetsLive s) (hi : s.entry i = .issued c t) (e : AccessEnd) {j : FenceIx} {w : FenceWait}
    (hj : s.fence j = .waiting w) :
    (endWrite i e s).fence j =
      if i ∈ w.waitSet then
        if w.waitSet.filter (fun x => x != i) = [] then .free
        else .waiting { w with waitSet := w.waitSet.filter fun x => x != i, faultSeen := w.faultSeen || e.failed }
      else .waiting w := by
  obtain ⟨hne, -⟩ := hW j w hj
  rw [fence_endWrite hi, hj]
  by_cases hmem : i ∈ w.waitSet
  · rw [leave_of_mem hmem, if_pos hmem]
    exact ite_congr (propext List.isEmpty_iff) (fun _ => rfl) fun _ => rfl
  · have hleave : FenceRec.leave i e.failed (.waiting w) = .waiting w := if_neg (by simpa using hmem)
    rw [hleave, if_neg hmem, if_neg]
    simpa [FenceRec.isEmptied] using hne

theorem endAccess_of_owner (ht : s.access t = .outstanding (.write i) n) (e : AccessEnd) :
    endAccess t e s = endWrite i e (s.setAccess t (if e = .timeout then .quarantined else .free)) := by
  rw [endAccess_write ht, ReadTracker.recordAfter_eq]

/-- Settles O35: the end of an entry's access is the retirement of the entry under the freed record. -/
theorem retiringEntryLeavesEveryCollection : Obligations.RetiringEntryLeavesEveryCollection := by
  intro s t t' e n i c hs ht hi hW
  have hexec := ReadTracker.exec_memoryResponse hs ht
  refine ⟨_, rfl, fun data he => ?_, fun he data => ?_, ?_⟩
  · rw [he]
    exact hexec .ok data
  · rw [he]
    exact hexec .error data
  rw [endAccess_of_owner ht]
  generalize hv : s.setAccess t (if e = .timeout then .quarantined else .free) = v
  have hiv : v.entry i = .issued c t' := hv ▸ hi
  have hWv : WaitSetsLive v := hv ▸ hW
  have hentries := entries_endWrite hiv e
  have hview : ∀ f, committedView (endWrite i e v) f = (committedView v f).filter fun j => j != i := fun f =>
    committedView_without f (commitOrder_endWrite hiv e) fun j hj => by
      rw [State.entry, hentries, Table.get_set, if_neg hj, State.entry]
  obtain ⟨hfaults, hoverflow⟩ := faults_endWrite hiv e
  have hpressure : (endWrite i e v).pressure = pressureAt v (occupancy (endWrite i e v)) := by
    rw [endWrite_eq_dropped hiv]
    exact afterRelease_pressure v _ (by simp [dropped, dropEntry]) (by simp [dropped, dropEntry])
  have hmode : ModeFollows v (endWrite i e v) := by
    rw [endWrite_eq_dropped hiv]
    exact afterRelease_modeFollows v _ (by simp [dropped, dropEntry]) (by simp [dropped, dropEntry])
  subst hv
  refine ⟨fun j w hj => fence_retired hWv hiv e hj, fun j hj => ?_, fun hno => ?_, fun kind hcls hkind => ?_,
    fun l => hview _, fun p => hview _, hview _, hpressure, hmode, endWrite_eq hiv e⟩
  · rw [fence_endWrite hiv, show (s.setAccess t _).fence j = .free from hj]
    rfl
  · rw [hfaults, hoverflow]
    by_cases hcls : c.cls = .through
    · rw [reportEnd_of_through hcls]
      exact faultList_answerThrough c _ _
    · rw [reportEnd_of_ok hcls (hno.resolve_left hcls)]
      exact ⟨rfl, rfl⟩
  · have hfailed : e.failed = true ∧ faultKindOf e = kind := by
      obtain ⟨rfl, rfl⟩ | ⟨rfl, rfl⟩ := hkind <;> exact ⟨rfl, rfl⟩
    rw [hfaults, hoverflow, reportEnd_of_failed hcls hfailed.1, hfailed.2]
    exact faultList_reportPosted c kind (s.setAccess t (if e = .timeout then .quarantined else .free))

/-! ## The order of the answers -/

theorem acceptedOrder_leave (i : EntryIx) (failed : Bool) (f : FenceRec) :
    (f.leave i failed).acceptedOrder = f.acceptedOrder := by
  cases f with
  | free => rfl
  | waiting w => simp only [FenceRec.leave]; split_ifs <;> rfl

/-- A record is emptied where the retiring entry was the last of its set. -/
theorem isEmptied_leave_iff (hW : WaitSetsLive s) (i : EntryIx) (failed : Bool) (j : FenceIx) :
    ((s.fence j).leave i failed).isEmptied = true ↔
      ∃ w, s.fence j = .waiting w ∧ i ∈ w.waitSet ∧ w.waitSet.filter (fun x => x != i) = [] := by
  cases hj : s.fence j with
  | free => exact iff_of_false nofun nofun
  | waiting w =>
    obtain ⟨hne, -⟩ := hW j w hj
    simp only [FenceRec.leave, FenceRec.waiting.injEq, exists_eq_left']
    split_ifs with hmem
    · simp only [FenceRec.isEmptied, List.isEmpty_iff]
      exact (and_iff_right (by simpa using hmem)).symm
    · refine iff_of_false (by simpa [FenceRec.isEmptied] using hne) ?_
      rintro ⟨h, -⟩
      exact hmem (by simpa using h)

/-- The response that a record's answer places in the queue of port p. -/
def fenceResponse (p : Port) (answer : FenceWait → Answer) : FenceRec → Option Response
  | .free => none
  | .waiting w => if w.port = p then some { tag := w.tag, answer := answer w } else none

theorem port_answerEmptied (u : State) (p : Port) :
    (answerEmptied u).port p = { u.port p with
      queue := (u.port p).queue ++
        (emptiedFences u).filterMap fun j => fenceResponse p (fun w => fenceAnswer w.faultSeen) (u.fence j) } :=
  port_foldl_answerFence _ u (emptiedFences_nodup u) p

/-- Settles O36: the entry's own answer is placed first, and the emptied records follow in acceptance order. -/
theorem retirementAnswersInOrder : Obligations.RetirementAnswersInOrder := by
  intro s t t' e n i c hs ht hi hW
  have hexec := ReadTracker.exec_memoryResponse hs ht
  generalize hv : s.setAccess t (if e = .timeout then .quarantined else .free) = v
  have hiv : v.entry i = .issued c t' := hv ▸ hi
  have hfence := fence_dropped i c e v
  have hvfence : ∀ j, v.fence j = s.fence j := fun j => hv ▸ rfl
  have hmem : ∀ j, j ∈ emptiedFences (dropped i c e v) ↔ ((s.fence j).leave i e.failed).isEmptied = true := fun j => by
    rw [mem_emptied, hfence, hvfence]
  refine ⟨_, emptiedFences (dropped i c e v), ownAnswer e, rfl, fun data he => ?_, fun he data => ?_, emptiedFences_nodup _,
    fun j => (hmem j).trans (isEmptied_leave_iff hW i e.failed j), ?_, ?_, ?_, ?_, fun p => ?_⟩
  · rw [he]
    exact hexec .ok data
  · rw [he]
    exact hexec .error data
  · refine (emptiedFences_sorted (dropped i c e v)).imp fun {a b} hab => ?_
    rwa [hfence, hfence, hvfence, hvfence, acceptedOrder_leave, acceptedOrder_leave] at hab
  · rintro rfl
    rfl
  · rintro rfl
    rfl
  · cases e with
    | ok data => exact fun _ => rfl
    | error | timeout => exact nofun
  · have hreport : (dropped i c e v).port p = (reportEnd c e v).port p := rfl
    have hport : (endWrite i e v).port p = (answerEmptied (dropped i c e v)).port p := by
      rw [endWrite_eq_dropped hiv, State.port, State.port, (afterRelease_frame _).1]
    have hanswers : (emptiedFences (dropped i c e v)).filterMap
          (fun j => fenceResponse p (fun w => fenceAnswer w.faultSeen) ((dropped i c e v).fence j)) =
        (emptiedFences (dropped i c e v)).filterMap
          fun j => fenceResponse p (fun w => fenceAnswer (w.faultSeen || e.failed)) (s.fence j) := by
      refine List.filterMap_congr fun j hj => ?_
      obtain ⟨w, hw, hiw, -⟩ := (isEmptied_leave_iff hW i e.failed j).mp ((hmem j).mp hj)
      rw [hfence, hvfence, hw, leave_of_mem hiw]
      rfl
    rw [endAccess_of_owner ht, hv, hport, port_answerEmptied, hanswers, hreport, port_reportEnd,
      show v.port p = s.port p from hv ▸ rfl]
    rfl

end Ends

end Sys2Proof.Retirement
end

section
/-! Ticks (R155): the timers, the expiries they bring, the idle abort (R79) and the bus timeout (R171); stray responses and
RELEASE-TAGS (R111, R116). -/

namespace Sys2Proof.Ticks

open Sys2Proof.Machine Sys2Proof.Safety Sys2Proof.Events

section Timers

variable {s : State}

theorem entry_advance_pending {i : EntryIx} {c : Committed} (hi : s.entry i = .pending c) :
    (advanceTimers s).entry i = .pending { c with age := min (c.age + 1) 1023 } := by
  rw [entry_advance, hi]
  rfl

theorem entry_advance_of_not_pending {i : EntryIx} (hi : (s.entry i).isPending = false) :
    (advanceTimers s).entry i = s.entry i := by
  rw [entry_advance]
  cases hx : s.entry i with
  | pending c => rw [hx] at hi; cases hi
  | _ => rfl

theorem ctx_advance_opened {c : CtxIx} {o : OpenCtx} (hc : s.ctx c = .opened o) :
    (advanceTimers s).ctx c = .opened { o with idle := o.idle + 1 } := by
  rw [ctx_advance, hc]
  rfl

theorem ctx_advance_of_not_open {c : CtxIx} (hc : (s.ctx c).isOpen = false) : (advanceTimers s).ctx c = s.ctx c := by
  rw [ctx_advance]
  cases hx : s.ctx c with
  | opened o => rw [hx] at hc; cases hc
  | _ => rfl

theorem access_advance_outstanding {t : AccessTag} {o : Owner} {n : Nat} (ht : s.access t = .outstanding o n) :
    (advanceTimers s).access t = .outstanding o (n + 1) := by
  rw [access_advance, ht]
  rfl

theorem access_advance_of_ended {t : AccessTag} (ht : s.access t = .free ∨ s.access t = .quarantined) :
    (advanceTimers s).access t = s.access t := by
  rw [access_advance]
  obtain ht | ht := ht <;> rw [ht] <;> rfl

/-! ## The expiries of bundles and link -/

/-- The contexts whose idle timers the next tick brings to the limit, in their order. -/
def idledContexts (s : State) : List CtxIx :=
  (List.finRange 6).filter fun c => ((advanceTimers s).ctx c).idledOut s.config.idleLimit

theorem mem_idledContexts {c : CtxIx} : c ∈ idledContexts s ↔ IdlesOutNext s c := by
  rw [idledContexts, List.mem_filter, advance_idledOut, and_iff_right (List.mem_finRange c)]

theorem nodup_idledContexts (s : State) : (idledContexts s).Nodup := (List.nodup_finRange 6).filter _

/-- The idle expiries of a tick are aborts, after the bus timeout. -/
theorem expireBusAndIdles_eq (s : State) : expireBusAndIdles (advanceTimers s) =
    (idledContexts s).foldl (fun u c => abortCtx c .idle u) (expireBus (advanceTimers s)) := by
  have hconfig : (expireBus (advanceTimers s)).config = s.config := by simp
  have hctx : ∀ c, (expireBus (advanceTimers s)).ctx c = (advanceTimers s).ctx c := fun c => by simp [State.ctx]
  rw [expireBusAndIdles, expireIdles_eq_aborts _ (List.nodup_finRange 6), hconfig]
  simp only [hctx]
  rfl

theorem expireBus_of_timedOut (h : BusTimesOutNext s) : expireBus (advanceTimers s) =
    { advanceTimers s with link := { s.link with frame := .idle, busTimer := none } } :=
  if_pos ((advance_busTimedOut s).mpr h)

theorem expireBus_of_not_timedOut (h : ¬ BusTimesOutNext s) : expireBus (advanceTimers s) = advanceTimers s :=
  if_neg (mt (advance_busTimedOut s).mp h)

/-! ## The access timeouts -/

theorem exec_tick (hs : s.inReset = false) : exec .tick s = .next (tickNow s) := whileRunning_of hs _

/-- A tick takes every timeout that it brings, each once. -/
theorem tickNow_eq (s : State) : ∃ tags : List AccessTag, tags.Nodup ∧ (∀ t, t ∈ tags ↔ TimesOutNext s t) ∧
    tickNow s = { tags.foldl (fun u t => endAccess t .timeout u) (expireBusAndIdles (advanceTimers s)) with
      freeCount := s.freeCount + (tags.length - 1) } := by
  obtain ⟨tags, hnodup, hmem, heq⟩ := expireAccesses_spec 8 (expireBusAndIdles (advanceTimers s)) (length_expiringTags _)
  have hcount : (expireBusAndIdles (advanceTimers s)).freeCount = s.freeCount := by simp
  refine ⟨tags, hnodup, fun t => (hmem t).trans (mem_expiringTags_advance s t), ?_⟩
  rw [tickNow, heq, hcount]

/-- ACCESS_TIMEOUT takes the timeout of its record first. -/
theorem exec_accessTimeout (hs : s.inReset = false) {t : AccessTag} (ht : TimesOutNext s t) :
    ∃ tags : List AccessTag, (t :: tags).Nodup ∧ (∀ x, x ∈ t :: tags ↔ TimesOutNext s x) ∧
      exec (.accessTimeout t) s =
        .next { tags.foldl (fun u x => endAccess x .timeout u)
            (endAccess t .timeout (expireBusAndIdles (advanceTimers s))) with
          freeCount := s.freeCount + (tags.length - 1) } := by
  have hdue := (mem_expiringTags_advance s t).mpr ht
  obtain ⟨tags, hnodup, hmem, heq⟩ :=
    expireAccesses_spec 8 (endAccess t .timeout (expireBusAndIdles (advanceTimers s))) (length_expiringTags _)
  have hcount : (endAccess t .timeout (expireBusAndIdles (advanceTimers s))).freeCount = s.freeCount := by simp
  have hrest : ∀ x, x ∈ tags ↔ x ≠ t ∧ TimesOutNext s x := fun x => by
    rw [hmem, expiringTags_endAccess t _ hdue, mem_expiringTags_advance]
  refine ⟨tags, List.nodup_cons.mpr ⟨fun h => ((hrest t).mp h).1 rfl, hnodup⟩, fun x => ?_, ?_⟩
  · rw [List.mem_cons, hrest]
    by_cases hx : x = t
    · simp [hx, ht]
    · simp [hx]
  · refine (whileRunning_of hs _).trans (congrArg Host.Outcome.next ?_)
    rw [if_pos ((advance_timedOut s t).mpr ht), tickTimingOut, expireAccess_of_mem _ _ hdue, heq, hcount]

/-- Settles O38: the timers advance in one event, and the expiries are taken on the state they leave. -/
theorem tickAdvancesEveryTimer : Obligations.TickAdvancesEveryTimer := by
  intro s hs
  refine ⟨_, idledContexts s, expireBusAndIdles (advanceTimers s), rfl, fun i c => entry_advance_pending,
    fun i => entry_advance_of_not_pending, fun c o => ctx_advance_opened, fun c => ctx_advance_of_not_open,
    fun t o n => access_advance_outstanding, fun t => access_advance_of_ended, rfl, nodup_idledContexts s,
    fun c => mem_idledContexts, fun hbus => ?_, fun hbus => ?_, ?_, fun t => exec_accessTimeout hs⟩
  · rw [expireBusAndIdles_eq, expireBus_of_timedOut hbus]
  · rw [expireBusAndIdles_eq, expireBus_of_not_timedOut hbus]
  · obtain ⟨tags, hnodup, hmem, heq⟩ := tickNow_eq s
    exact ⟨tags, hnodup, hmem, by rw [exec_tick hs, heq]⟩

/-! ## Idle expiry and abort -/

/-- The end of an access fills no entry. -/
theorem entry_endAccess_of_free {t : AccessTag} {e : AccessEnd} {i : EntryIx} (hi : s.entry i = .free) :
    (endAccess t e s).entry i = .free := by
  cases ht : s.access t with
  | free | quarantined => simpa only [endAccess, ht] using hi
  | outstanding o n =>
    cases o with
    | read k =>
      rw [endAccess_read ht]
      exact (entry_of_entries (by simp) i).trans hi
    | write j =>
      rw [endAccess_write ht]
      by_cases hj : OwnerIssued (s.setAccess t e.recordAfter) (.write j)
      · obtain ⟨c, t', hc⟩ := hj
        rw [State.entry, entries_endWrite hc, Table.get_set]
        split_ifs
        · rfl
        · exact hi
      · rw [endWrite_of_not_issued hj]
        exact hi

theorem foldl_endAccess_keeps (l : List AccessTag) {i : EntryIx} (hi : s.entry i = .free) :
    (l.foldl (fun u t => endAccess t .timeout u) s).entry i = .free := by
  induction l generalizing s with
  | nil => exact hi
  | cons t l ih => exact ih (entry_endAccess_of_free hi)

theorem contexts_foldl_endAccess (l : List AccessTag) (s : State) :
    (l.foldl (fun u t => endAccess t .timeout u) s).contexts = s.contexts := by
  induction l generalizing s with
  | nil => rfl
  | cons t l ih => exact (ih _).trans (by simp)

/-- The tick at which a context's idle timer reaches the limit aborts it (R79). -/
theorem tickNow_aborts {c : CtxIx} {o : OpenCtx} (hc : s.ctx c = .opened o) (hidle : IdlesOutNext s c) :
    (tickNow s).ctx c = .aborted o.port o.lane o.rank .idle ∧ ∀ i ∈ o.members, (tickNow s).entry i = .free := by
  obtain ⟨tags, -, -, heq⟩ := tickNow_eq s
  have hmem := mem_idledContexts.mpr hidle
  have hctx : (expireBus (advanceTimers s)).ctx c = .opened { o with idle := o.idle + 1 } := by
    rw [← ctx_advance_opened hc]
    simp [State.ctx]
  rw [heq]
  refine ⟨?_, fun i hi => ?_⟩
  · change (tags.foldl (fun u t => endAccess t .timeout u) _).ctx c = _
    rw [State.ctx, contexts_foldl_endAccess, ← State.ctx, expireBusAndIdles_eq, BundleTable.ctx_foldl_abort, if_pos hmem, hctx]
    rfl
  · change (tags.foldl (fun u t => endAccess t .timeout u) _).entry i = _
    refine foldl_endAccess_keeps tags ?_
    rw [expireBusAndIdles_eq, BundleTable.entry_foldl_abort, if_pos]
    exact ⟨c, hmem, by rw [hctx]; exact hi⟩

theorem exec_idleExpiry_of_idle (hs : s.inReset = false) {c : CtxIx} (h : IdlesOutNext s c) :
    exec (.idleExpiry c) s = .next (tickNow s) :=
  (whileRunning_of hs _).trans (congrArg Host.Outcome.next (if_pos ((advance_idledOut s c).mpr h)))

theorem exec_idleExpiry_of_not_idle (hs : s.inReset = false) {c : CtxIx} (h : ¬ IdlesOutNext s c) :
    exec (.idleExpiry c) s = .next s :=
  (whileRunning_of hs _).trans (congrArg Host.Outcome.next (if_neg (mt (advance_idledOut s c).mp h)))

/-- Settles O23: an abort is a release of the members, and an idle expiry an abort at the next tick. -/
theorem abortReleasesTheMembers : Obligations.AbortReleasesTheMembers := by
  refine fun s c => ⟨fun o hc => ⟨fun reason => ?_, fun hs => ⟨fun hidle => ?_, fun hidle => ?_⟩⟩,
    fun hc => ⟨fun reason => BundleTable.abortCtx_of_not_open hc reason, fun hs => exec_idleExpiry_of_not_idle hs ?_⟩⟩
  · have hreleased := BundleTable.released_abortCtx hc reason
    refine ⟨_, rfl, fun i => ?_, fun d => ?_, hreleased.pressure, hreleased.mode, hreleased.frame⟩
    · rw [BundleTable.entry_abortCtx, hc]
      rfl
    · rw [BundleTable.ctx_abortCtx]
      split_ifs with hd
      · rw [hd, hc]
        rfl
      · rfl
  · have hnext : IdlesOutNext s c := ⟨o, hc, hidle⟩
    rw [exec_idleExpiry_of_idle hs hnext]
    exact ⟨(exec_tick hs).symm, _, rfl, tickNow_aborts hc hnext⟩
  · refine exec_idleExpiry_of_not_idle hs ?_
    rintro ⟨q, hq, hle⟩
    obtain rfl := Ctx.opened.inj (hc.symm.trans hq)
    omega
  · rintro ⟨o, ho, -⟩
    rw [ho] at hc
    cases hc

/-! ## Stray responses and quarantine -/

theorem access_releaseAllTags (s : State) (a : AccessTag) :
    (releaseAllTags s).access a = if s.access a = .quarantined then .free else s.access a := by
  have hquarantined : ∀ x : AccessRec, x.isQuarantined = true ↔ x = .quarantined := by
    intro x
    cases x <;> simp [AccessRec.isQuarantined]
  rw [releaseAllTags, State.access, Table.get_mapIx]
  exact if_congr (hquarantined _) rfl rfl

/-- Settles O37: a response without an access is only marked, and frees a QUARANTINED record. -/
theorem strayResponsesAndQuarantine : Obligations.StrayResponsesAndQuarantine := by
  refine fun s hs => ⟨fun t status data => ⟨fun ht => ?_, fun ht => ?_⟩,
    ⟨_, Modes.exec_of_takeCommand hs rfl rfl, access_releaseAllTags s, rfl⟩, fun t ht => ?_⟩
  · refine (whileRunning_of hs _).trans (congrArg Host.Outcome.next ?_)
    simp only [responseArrives, ht]
    rfl
  · refine (whileRunning_of hs _).trans (congrArg Host.Outcome.next ?_)
    simp only [responseArrives, ht]
  · exact (whileRunning_of hs _).trans (congrArg Host.Outcome.next (if_neg (mt (advance_timedOut s t).mp ht)))

end Timers

end Sys2Proof.Ticks
end

section
/-! The maintenance link's frames (R168 to R171), and the limits that are checked and stored (R29, R80, R113, R153). -/

namespace Sys2Proof.LinkFrames

open Sys2Proof.Machine Sys2Proof.Safety

section Frames

variable {s : State}

theorem acksAddress_eq (hs : s.inReset = false) (b : Byte) :
    acksAddress s b = decide (b.toNat / 2 = 0x3A + s.link.strap.toNat) := by
  rw [acksAddress, hs, ownAddress]
  rfl

theorem ownAddress_iff {b : Byte} : ownAddress s b = true ↔ b.toNat / 2 = 0x3A + s.link.strap.toNat :=
  beq_iff_eq

theorem startFrame_eq (b : Byte) (s : State) : startFrame b s = { s with link := { s.link with
    frame :=
      if b.toNat / 2 = 0x3A + s.link.strap.toNat then
        if b.getLsbD 0 then .readData .atStart else .indexHigh
      else .idle
    busTimer := none } } := by
  rw [startFrame, if_congr ownAddress_iff rfl rfl]
  split_ifs <;> rfl

theorem link_expireBusAndIdles (s : State) : (expireBusAndIdles s).link = (expireBus s).link := by
  simp [expireBusAndIdles]

/-- The tick of a bus timeout resets the link (R171). -/
theorem link_tickNow (h : BusTimesOutNext s) : (tickNow s).link = { s.link with frame := .idle, busTimer := none } := by
  have hlink : (tickNow s).link = (expireBusAndIdles (advanceTimers s)).link := by simp [tickNow]
  rw [hlink, link_expireBusAndIdles, Ticks.expireBus_of_timedOut h]

theorem exec_busTimeout_of_due (hs : s.inReset = false) (h : BusTimesOutNext s) :
    exec .busTimeout s = .next (tickNow s) :=
  (whileRunning_of hs _).trans (congrArg Host.Outcome.next (if_pos ((advance_busTimedOut s).mpr h)))

/-- Settles O39: a START, a STOP and a bus timeout reset the link, and edges run the bus timeout timer. -/
theorem linkFramesBeginAndEnd : Obligations.LinkFramesBeginAndEnd := by
  refine fun s hs => ⟨fun b => ⟨acksAddress_eq hs b, ?_⟩, whileRunning_of hs _, fun h => ?_, fun h => ?_,
    whileRunning_of hs _, fun h => ?_, fun h => ?_⟩
  · rw [← startFrame_eq]
    exact whileRunning_of hs _
  · rw [exec_busTimeout_of_due hs h]
    exact ⟨(Ticks.exec_tick hs).symm, _, rfl, link_tickNow h⟩
  · exact (whileRunning_of hs _).trans (congrArg Host.Outcome.next (if_neg (mt (advance_busTimedOut s).mp h)))
  · exact (whileRunning_of hs _).trans (congrArg Host.Outcome.next (if_neg h))
  · exact (whileRunning_of hs _).trans (congrArg Host.Outcome.next (if_pos h))

theorem exec_linkIndexByte (hs : s.inReset = false) (b : Byte) : exec (.linkIndexByte b) s = .next (indexByte b s) :=
  whileRunning_of hs _

theorem exec_linkDataByte (hs : s.inReset = false) (b : Byte) : exec (.linkDataByte b) s = .next (dataByte b s) :=
  whileRunning_of hs _

/-- Fewer than four bytes are held (R170). -/
theorem dataByte_of_short {held : List Byte} (hf : s.link.frame = .writeData held) (hlen : held.length < 3) (b : Byte) :
    dataByte b s = s.setFrame (.writeData (held ++ [b])) := by
  match held, hlen with
  | [], _ => simp only [dataByte, hf]
  | [_], _ => simp only [dataByte, hf]
  | [_, _], _ => simp only [dataByte, hf]

theorem link_objectWriteEvent_index (x : BitVec 16) (v : Word) (s : State) :
    (objectWriteEvent x v s).link.index = s.link.index := by
  have hlink := (Resets.offerValue_sameQueueAndLink (objectAt x) v s).2
  exact congrArg (·.index) hlink

/-- Settles O40: index bytes set the index, and the fourth data byte is the object write. -/
theorem linkBytesSetIndexAndWriteObjects : Obligations.LinkBytesSetIndexAndWriteObjects := by
  refine fun s b hs => ⟨fun hf => ?_, fun h hf => ?_, fun held hf hlen => ?_, fun b0 b1 b2 hf =>
    ⟨_, whileRunning_of hs _, ?_⟩⟩
  · simp only [exec_linkIndexByte hs, indexByte, hf]
    rfl
  · simp only [exec_linkIndexByte hs, indexByte, hf]
    rfl
  · rw [exec_linkDataByte hs, dataByte_of_short hf hlen]
    rfl
  · have hword : wordOfBytes b0 b1 b2 b = b ++ b2 ++ b1 ++ b0 := rfl
    have hindex := link_objectWriteEvent_index s.link.index (b ++ b2 ++ b1 ++ b0) s
    simp only [exec_linkDataByte hs, dataByte, hf, hword]
    generalize objectWriteEvent s.link.index (b ++ b2 ++ b1 ++ b0) s = t at hindex ⊢
    rw [← hindex]
    rfl

end Frames

/-! ## Limits -/

section Limits

variable {s : State}

theorem ageLimit_check_iff {v : Word} : (fitsIn v 10 && inRange 0 1023 v) = true ↔ v.toNat ≤ 1023 :=
  (ConfigObjects.fits_and_inRange_iff (by decide)).trans (and_iff_right (Nat.zero_le _))

theorem exec_ageLimit (hs : s.inReset = false) (v : Word) :
    exec (.ageLimit v) s = .next (recordResult 0x0104 (writeAgeLimit v s)) :=
  whileRunning_of hs fun s => recordResult (configIndex .ageLimit) (writeAgeLimit v s)

theorem exec_idleLimit (hs : s.inReset = false) (v : Word) :
    exec (.idleLimit v) s = .next (recordResult 0x0105 (writeIdleLimit v s)) :=
  whileRunning_of hs fun s => recordResult (configIndex .idleLimit) (writeIdleLimit v s)

theorem exec_memTimeout (hs : s.inReset = false) (v : Word) :
    exec (.memTimeout v) s = .next (recordResult 0x0106 (writeMemTimeout v s)) :=
  whileRunning_of hs fun s => recordResult (configIndex .memTimeout) (writeMemTimeout v s)

theorem exec_tbdiv (hs : s.inReset = false) (v : Word) :
    exec (.tbdiv v) s = .next (recordResult 0x0109 (writeTbdiv v s)) :=
  whileRunning_of hs fun s => recordResult (configIndex .tbdiv) (writeTbdiv v s)

/-- Settles O47: each limit is its item's checked store, and TBDIV asks for PASS first. -/
theorem timeLimitsAreCheckedAndStored : Obligations.TimeLimitsAreCheckedAndStored := by
  refine fun s v hs => ⟨?_, ?_, ?_, fun hpass => ?_, fun hpass => ?_⟩
  · rw [exec_ageLimit hs, writeAgeLimit, recordResult_storeIf ageLimit_check_iff]
    rfl
  · rw [exec_idleLimit hs, writeIdleLimit, recordResult_storeIf (ConfigObjects.fits_and_inRange_iff (by decide))]
    rfl
  · rw [exec_memTimeout hs, writeMemTimeout, recordResult_storeIf (ConfigObjects.fits_and_inRange_iff (by decide))]
    rfl
  · rw [exec_tbdiv hs, writeTbdiv, if_pos hpass, recordResult_storeIf (ConfigObjects.fits_and_inRange_iff (by decide))]
    rfl
  · rw [exec_tbdiv hs, writeTbdiv, if_neg hpass]
    rfl

end Limits

end Sys2Proof.LinkFrames
end

section
/-! Object reads over the link (R170, R172, R176): the objects' words, field by field, and the bytes of a read frame. -/

namespace Sys2Proof.ObjectReads

open Sys2Proof.Machine Sys2Proof.Safety Sys2Proof.FaultsAndFlags

section Words

variable {s : State} {v : Word}

/-! ## The summary and the last result -/

theorem countP_of_iff {α : Type} {n : Nat} {t : Table α n} {test : α → Bool} {P : Fin n → Prop} [DecidablePred P]
    (h : ∀ i, test (t.get i) = true ↔ P i) : t.count test = (List.finRange n).countP fun i => P i := by
  rw [count_finRange]
  exact List.countP_congr fun i _ => by rw [h, decide_eq_true_iff]

theorem occupancy_eq (s : State) : occupancy s = (List.finRange 64).countP fun i => s.entry i ≠ .free :=
  countP_of_iff fun i => by rw [Bool.not_eq_true', ← Bool.not_eq_true, isFree_entry]

theorem isQuarantined_iff {x : AccessRec} : x.isQuarantined = true ↔ x = .quarantined := by
  cases x <;> simp [AccessRec.isQuarantined]

theorem tagsQuarantined_eq (s : State) :
    tagsQuarantined s = (List.finRange 8).countP fun t => s.access t = .quarantined :=
  countP_of_iff fun _ => isQuarantined_iff

theorem contextsInUse_eq (s : State) : contextsInUse s = (List.finRange 6).countP fun c => s.ctx c ≠ .free :=
  countP_of_iff fun c => by rw [Bool.not_eq_true', ← Bool.not_eq_true, isFree_ctx]

theorem fencesInUse_eq (s : State) : fencesInUse s = (List.finRange 8).countP fun j => s.fence j ≠ .free :=
  countP_of_iff fun j => by rw [Bool.not_eq_true', ← Bool.not_eq_true, isFree_fence]

theorem summary_fields (hv : summaryWord s = v) :
    v.extractLsb' 0 2 = (match s.mode with | .pass => 0 | .run => 1 | .quiescing => 2 | .quiesced => 3) ∧
    v.extractLsb' 2 2 = 0 ∧ v.getLsbD 4 = s.pressure ∧ v.getLsbD 5 = s.overflow ∧ v.getLsbD 6 = s.stray ∧
    v.getLsbD 7 = s.modeEvent ∧
    (v.extractLsb' 8 7).toNat = (List.finRange 64).countP (fun i => s.entry i ≠ .free) ∧ v.getLsbD 15 = false ∧
    (v.extractLsb' 16 4).toNat = (List.finRange 8).countP (fun t => s.access t = .quarantined) ∧
    (v.extractLsb' 20 3).toNat = (List.finRange 6).countP (fun c => s.ctx c ≠ .free) ∧ v.getLsbD 23 = false ∧
    (v.extractLsb' 24 4).toNat = (List.finRange 8).countP (fun j => s.fence j ≠ .free) ∧ v.extractLsb' 28 4 = 0 := by
  have hsum := summaryWord_toNat s
  rw [hv] at hsum
  have hmode : modeCode s.mode < 4 := by cases s.mode <;> decide
  have hpressure := bit_le s.pressure
  have hoverflow := bit_le s.overflow
  have hstray := bit_le s.stray
  have hevent := bit_le s.modeEvent
  have hocc : occupancy s ≤ 64 := Table.count_le _ _
  have htags : tagsQuarantined s ≤ 8 := Table.count_le _ _
  have hcontexts : contextsInUse s ≤ 6 := Table.count_le _ _
  have hfences : fencesInUse s ≤ 8 := Table.count_le _ _
  have hcode : v.toNat / 2 ^ 0 % 2 ^ 2 = modeCode s.mode := by omega
  have hfalse : bit false = 0 := rfl
  rw [← occupancy_eq, ← tagsQuarantined_eq, ← contextsInUse_eq, ← fencesInUse_eq]
  refine ⟨extract_eq 0 2 v _ (hcode.trans ?_), extract_eq_zero 2 2 ?_, getLsbD_eq_flag v 4 _ ?_, getLsbD_eq_flag v 5 _ ?_,
    getLsbD_eq_flag v 6 _ ?_, getLsbD_eq_flag v 7 _ ?_, extract_toNat 8 7 v _ ?_, getLsbD_eq_flag v 15 _ ?_,
    extract_toNat 16 4 v _ ?_, extract_toNat 20 3 v _ ?_, getLsbD_eq_flag v 23 _ ?_, extract_toNat 24 4 v _ ?_,
    extract_eq_zero 28 4 ?_⟩
  case refine_1 => cases s.mode <;> rfl
  all_goals omega

theorem lastResult_fields (hv : lastResultWord s = v) :
    v.extractLsb' 0 2 =
      (match s.link.lastResult with | .none => 0 | .accepted => 1 | .refusedState => 2 | .refusedValue => 3) ∧
    v.extractLsb' 2 14 = 0 ∧ v.extractLsb' 16 16 = s.link.lastIndex := by
  have hsum := lastResultWord_toNat s
  rw [hv] at hsum
  have hresult : resultCode s.link.lastResult < 4 := by cases s.link.lastResult <;> decide
  have hindex := s.link.lastIndex.isLt
  have hcode : v.toNat / 2 ^ 0 % 2 ^ 2 = resultCode s.link.lastResult := by omega
  refine ⟨extract_eq 0 2 v _ (hcode.trans ?_), extract_eq_zero 2 14 ?_, extract_eq 16 16 v _ ?_⟩
  case refine_1 => cases s.link.lastResult <;> rfl
  all_goals omega

/-! ## The configuration items -/

theorem toNat_ofNat_of_le {n m : Nat} (h : n ≤ m) (hm : m < 2 ^ 32) : (BitVec.ofNat 32 n).toNat = n :=
  (BitVec.toNat_ofNat n 32).trans (Nat.mod_eq_of_lt (h.trans_lt hm))

theorem config_values (h : ConfigLegal s) :
    (configWord s .bundleQuota).toNat = s.config.bundleQuota ∧ (configWord s .reserve).toNat = s.config.reserve ∧
    (configWord s .highMark).toNat = s.config.highMark ∧ (configWord s .lowMark).toNat = s.config.lowMark ∧
    (configWord s .ageLimit).toNat = s.config.ageLimit ∧ (configWord s .idleLimit).toNat = s.config.idleLimit ∧
    (configWord s .memTimeout).toNat = s.config.memTimeout ∧
    (configWord s .readRunLimit).toNat = s.config.readRunLimit ∧ (configWord s .tbdiv).toNat = s.config.tbdiv :=
  ⟨toNat_ofNat_of_le h.quota.2 (by decide), toNat_ofNat_of_le h.reserve.2 (by decide),
    toNat_ofNat_of_le h.high.2 (by decide), toNat_ofNat_of_le h.low (by decide), toNat_ofNat_of_le h.age (by decide),
    toNat_ofNat_of_le h.idle.2 (by decide), toNat_ofNat_of_le h.timeout.2 (by decide),
    toNat_ofNat_of_le h.readRun.2 (by decide), toNat_ofNat_of_le h.tbdiv.2 (by decide)⟩

/-- Four flags on the lowest four bits of a word. -/
theorem fourFlags_fields (a b c d : Bool) (hv : BitVec.ofNat 32 (bit a + 2 * bit b + 4 * bit c + 8 * bit d) = v) :
    v.getLsbD 0 = a ∧ v.getLsbD 1 = b ∧ v.getLsbD 2 = c ∧ v.getLsbD 3 = d ∧ v.extractLsb' 4 28 = 0 := by
  have ha := bit_le a
  have hb := bit_le b
  have hc := bit_le c
  have hd := bit_le d
  have hsum : v.toNat = bit a + 2 * bit b + 4 * bit c + 8 * bit d := by
    rw [← hv]
    exact toNat_ofNat_of_le (m := 15) (by omega) (by decide)
  refine ⟨getLsbD_eq_flag v 0 _ ?_, getLsbD_eq_flag v 1 _ ?_, getLsbD_eq_flag v 2 _ ?_, getLsbD_eq_flag v 3 _ ?_,
    extract_eq_zero 4 28 ?_⟩ <;> omega

theorem portGroup_fields (hv : configWord s .portGroup = v) :
    (∀ n : Port, v.getLsbD n.val = s.config.portLow.get n) ∧ v.extractLsb' 4 28 = 0 := by
  obtain ⟨h0, h1, h2, h3, hrest⟩ := fourFlags_fields _ _ _ _ hv
  refine ⟨fun n => ?_, hrest⟩
  match n with
  | 0 => exact h0
  | 1 => exact h1
  | 2 => exact h2
  | 3 => exact h3

theorem defaultClass_value (s : State) :
    configWord s .defaultClass = (match s.config.defaultClass with | .post => 0 | .ordered => 1 | .through => 2) := by
  rw [configWord]
  cases s.config.defaultClass <;> rfl

/-! ## Windows and ports -/

theorem window_size_fields {x : Window} (hx : WindowLegal x) (hv : windowWord x .baseHighSize = v) :
    v.extractLsb' 0 8 = x.base.extractLsb' 32 8 ∧ (v.extractLsb' 8 6).toNat = x.exponent ∧ v.extractLsb' 14 18 = 0 := by
  obtain ⟨-, hexponent, -⟩ := hx
  have hbase := (x.base.extractLsb' 32 8).isLt
  have hsum : v.toNat = (x.base.extractLsb' 32 8).toNat + 256 * x.exponent := by
    rw [← hv]
    exact toNat_ofNat_of_le (m := 10495) (by omega) (by decide)
  refine ⟨extract_eq 0 8 v _ ?_, extract_toNat 8 6 v _ ?_, extract_eq_zero 14 18 ?_⟩ <;> omega

theorem window_class_fields {x : Window} (hv : windowWord x .classEnable = v) :
    v.extractLsb' 0 2 = (match x.cls with | .post => 0 | .ordered => 1 | .through => 2) ∧
    v.extractLsb' 2 6 = 0 ∧ v.getLsbD 8 = x.enabled ∧ v.extractLsb' 9 23 = 0 := by
  have hcls : classCode x.cls < 3 := by cases x.cls <;> decide
  have henabled := bit_le x.enabled
  have hsum : v.toNat = classCode x.cls + 256 * bit x.enabled := by
    rw [← hv]
    exact toNat_ofNat_of_le (m := 258) (by omega) (by decide)
  have hcode : v.toNat / 2 ^ 0 % 2 ^ 2 = classCode x.cls := by omega
  refine ⟨extract_eq 0 2 v _ (hcode.trans ?_), extract_eq_zero 2 6 ?_, getLsbD_eq_flag v 8 _ ?_, extract_eq_zero 9 23 ?_⟩
  case refine_1 => cases x.cls <;> rfl
  all_goals omega

theorem portStatus_fields {n : Port} (hv : portStatusWord s n = v) (hn : (s.port n).outstanding.Nodup) :
    (v.extractLsb' 0 5).toNat = (s.port n).outstanding.length ∧ v.extractLsb' 5 3 = 0 ∧
    v.getLsbD 8 = headWaiting s n ∧ v.getLsbD 9 = (s.port n).violation ∧ v.getLsbD 10 = (s.port n).portFault ∧
    v.getLsbD 11 = (s.port n).held ∧ v.extractLsb' 12 20 = 0 := by
  have hlength : (s.port n).outstanding.length ≤ 16 := by simpa using hn.length_le_card
  have hwaiting := bit_le (headWaiting s n)
  have hviolation := bit_le (s.port n).violation
  have hfault := bit_le (s.port n).portFault
  have hheld := bit_le (s.port n).held
  have hsum : v.toNat = (s.port n).outstanding.length + 256 * bit (headWaiting s n) + 512 * bit (s.port n).violation +
      1024 * bit (s.port n).portFault + 2048 * bit (s.port n).held := by
    rw [← hv]
    exact toNat_ofNat_of_le (m := 3856) (by omega) (by decide)
  refine ⟨extract_toNat 0 5 v _ ?_, extract_eq_zero 5 3 ?_, getLsbD_eq_flag v 8 _ ?_, getLsbD_eq_flag v 9 _ ?_,
    getLsbD_eq_flag v 10 _ ?_, getLsbD_eq_flag v 11 _ ?_, extract_eq_zero 12 20 ?_⟩ <;> omega

/-! ## The bytes of a read frame -/

theorem byteSent_eq (hs : s.inReset = false) : byteSent s =
    match s.link.frame with
    | .readData .atStart => some (wordByte (readObject s (objectAt s.link.index)) 0)
    | .readData (.sending v n) => some (wordByte v n)
    | _ => none := by
  rw [byteSent, hs]
  rfl

theorem exec_linkReadByte (hs : s.inReset = false) (ack : Bool) : exec (.linkReadByte ack) s = .next (sendByte ack s) :=
  whileRunning_of hs _

end Words

/-- Settles O41: an object's word is sent byte by byte, and each field stands at its bits. -/
theorem linkReadSendsTheObject : Obligations.LinkReadSendsTheObject := by
  intro s ack hs
  refine ⟨rfl, rfl, fun v => summary_fields, fun v => lastResult_fields, config_values, fun v => portGroup_fields,
    defaultClass_value s, fun v => fourFlags_fields _ _ _ _, fun w x low size cls hx hlow hsize hcls => ?_, rfl,
    fun n v hv hn => ?_, fun hf => ?_, fun v n hf h1 h3 => ?_, fun v hf => ?_, fun hf => ?_⟩
  · have hread : ∀ part, readObject s (objectAt (BitVec.ofNat 16 (0x0200 + 4 * w.val + windowPartOffset part))) =
        windowWord x part := fun part => by rw [objectAt_window, readObject, hx]
    refine ⟨hlow.symm.trans (hread .baseLow), fun hlegal => ?_, ?_⟩
    · exact window_size_fields hlegal ((hread .baseHighSize).symm.trans hsize)
    · exact window_class_fields ((hread .classEnable).symm.trans hcls)
  · rw [objectAt_portStatus] at hv
    exact portStatus_fields hv hn
  · rw [byteSent_eq hs, exec_linkReadByte hs, sendByte, hf]
    exact ⟨rfl, rfl⟩
  · rw [byteSent_eq hs, exec_linkReadByte hs, sendByte, hf]
    exact ⟨rfl, congrArg Host.Outcome.next (if_pos h3)⟩
  · rw [byteSent_eq hs, exec_linkReadByte hs, sendByte, hf]
    exact ⟨rfl, rfl⟩
  · rw [byteSent_eq hs, exec_linkReadByte hs, sendByte, hf]
    exact ⟨rfl, rfl⟩

end Sys2Proof.ObjectReads
end
